-- ==== Sys2Proof/Word.lean ====
section
/-! DEFINITION. The engine's data: bytes, 32-bit words, and groups of four like things
(00_scope.md R7). What is computed on them stands in Machine/Bytes.lean. -/

namespace Sys2Proof

/-- A byte: 8 bits, bit 7 the most significant; also an element of GF(2^8) (R7). -/
abbrev Byte := BitVec 8

/-- A 32-bit word on the host bus (20_memory.md R43). -/
abbrev Word := BitVec 32

/-- Four like things in order. R7 writes a word as its bytes `(a0, a1, a2, a3)`; a block is the
four columns of its state view; a 128-bit register is its four words `X0 .. X3` (20_memory.md R42). -/
structure Quad (α : Type) where
  a0 : α
  a1 : α
  a2 : α
  a3 : α
  deriving DecidableEq, Repr

/-- A word as bytes, or a column of the state view: byte `a_k` is row `k` (R7). -/
abbrev Column := Quad Byte

/-- A block of 16 bytes `b[0..15]`: column `c` holds `b[4c] .. b[4c+3]` (R7, R45). -/
abbrev Block := Quad Column

end Sys2Proof
end

