-- ==== Sys2Proof/Config.lean ====
section
/-! DEFINITION. What an implementation or a platform fixes (00_scope.md R6, 93_implementation_defined.md
part 2), and the free values: constants with no body, so that no proof can see what they are. -/

namespace Sys2Proof

/-- The two readings of the CTR nonce and counter (44_modes.md R154, 92_eei_decisions.md D19). -/
inductive NonceOrder where
  /-- The zero bytes of the extension stand before the nonce; the counter is a big-endian integer. -/
  | big
  /-- The zero bytes stand after the nonce; the counter is a little-endian integer. -/
  | little
  deriving DecidableEq, Repr

/-- CTR_NONCE_ORDER: the spec decides `big` (R6, R154, D19). Assumption 9. -/
def Config.ctrNonceOrder : NonceOrder := .big

/-- Where the platform put the window, in units of its size (R41). Nothing constrains it. Assumption 8. -/
opaque Config.baseIndex : Nat

/-- The size of the register window in bytes (R40). -/
def Config.windowSize : Nat := 0x200

/-- BASE, a multiple of 0x200 (R41, U9). -/
def Config.base : Nat := Config.windowSize * Config.baseIndex

/-- FREE VALUE (10_state.md R27, 93 U1): what the byte at a window offset holds when nothing has
written it since reset, as the host access with the given number finds it: "an arbitrary draw".
First argument: the number of the host access (`State.draws`); second: the byte's window offset.
Assumptions 2 and 4. -/
opaque Config.freeByte : Nat → Nat → Byte

end Sys2Proof
end

