-- ==== Sys2Proof/Machine/Bytes.lean ====
section
/-! DEFINITION. Byte order and the views of a block: groups of four, byte indices, the state view,
the big-endian packing of the host bus, and blocks as 128-bit integers (00_scope.md R7, 20_memory.md R45). -/

namespace Sys2Proof.Machine

/-- The `i`-th of four. -/
def quadGet {α : Type} (q : Quad α) (i : Fin 4) : α :=
  match i with
  | 0 => q.a0
  | 1 => q.a1
  | 2 => q.a2
  | 3 => q.a3

/-- Four with the `i`-th replaced. -/
def quadSet {α : Type} (q : Quad α) (i : Fin 4) (x : α) : Quad α :=
  match i with
  | 0 => { q with a0 := x }
  | 1 => { q with a1 := x }
  | 2 => { q with a2 := x }
  | 3 => { q with a3 := x }

/-- A function on each of four. -/
def quadMap {α β : Type} (f : α → β) (q : Quad α) : Quad β :=
  ⟨f q.a0, f q.a1, f q.a2, f q.a3⟩

/-- A function on each of four pairs. -/
def quadZip {α β γ : Type} (f : α → β → γ) (p : Quad α) (q : Quad β) : Quad γ :=
  ⟨f p.a0 q.a0, f p.a1 q.a1, f p.a2 q.a2, f p.a3 q.a3⟩

/-- Bytewise XOR of two words (R7). -/
def xorColumn (p q : Column) : Column :=
  quadZip (fun x y => x ^^^ y) p q

/-- Bytewise XOR of two blocks (44_modes.md R160). -/
def xorBlock (p q : Block) : Block :=
  quadZip xorColumn p q

/-- A function on every byte of a block. -/
def blockMap (f : Byte → Byte) (b : Block) : Block :=
  quadMap (quadMap f) b

/-- The state view `s[r][c] = b[4c + r]` (R7); row and column are taken modulo 4. -/
def cell (b : Block) (r c : Nat) : Byte :=
  quadGet (quadGet b (Fin.ofNat 4 c)) (Fin.ofNat 4 r)

/-- Byte `b[i]` of a block, `i` in 0..15 (R7). -/
def byteAt (b : Block) (i : Nat) : Byte :=
  cell b (i % 4) (i / 4)

/-- The column with the given bytes by row. -/
def columnOf (f : Nat → Byte) : Column :=
  ⟨f 0, f 1, f 2, f 3⟩

/-- The block with the given state view: `f r c` at row `r` and column `c`. -/
def blockOfCells (f : Nat → Nat → Byte) : Block :=
  ⟨columnOf fun r => f r 0, columnOf fun r => f r 1, columnOf fun r => f r 2, columnOf fun r => f r 3⟩

/-- The block with the given bytes by index. -/
def blockOfBytes (f : Nat → Byte) : Block :=
  blockOfCells fun r c => f (4 * c + r)

/-- The block of a byte sequence, 0x00 after its end. -/
def blockOfList (l : List Byte) : Block :=
  blockOfBytes fun i => l.getD i 0

/-- A word's bytes in order `a0, a1, a2, a3`. -/
def columnList (q : Column) : List Byte :=
  [q.a0, q.a1, q.a2, q.a3]

/-- A block's bytes in order `b[0] .. b[15]`. -/
def blockList (b : Block) : List Byte :=
  columnList b.a0 ++ columnList b.a1 ++ columnList b.a2 ++ columnList b.a3

/-- Big-endian packing: `a0` in bits [31:24], `a3` in [7:0] (R7, R45). -/
def packWord (q : Column) : Word :=
  q.a0 ++ q.a1 ++ q.a2 ++ q.a3

/-- The bytes of a word on the bus (R45). -/
def unpackWord (v : Word) : Column :=
  ⟨v.extractLsb' 24 8, v.extractLsb' 16 8, v.extractLsb' 8 8, v.extractLsb' 0 8⟩

/-- Four words as a 128-bit integer, the first most significant (R21, R42). -/
def packQuad (q : Quad Word) : BitVec 128 :=
  q.a0 ++ q.a1 ++ q.a2 ++ q.a3

/-- The four words of a 128-bit integer: `X0` is bits [127:96] (R21, R42). -/
def unpackQuad (v : BitVec 128) : Quad Word :=
  ⟨v.extractLsb' 96 32, v.extractLsb' 64 32, v.extractLsb' 32 32, v.extractLsb' 0 32⟩

/-- `be_int(b)` modulo nothing: 16 bytes are 128 bits (R7). -/
def beInt (b : Block) : BitVec 128 :=
  packQuad (quadMap packWord b)

/-- `be16(v)` (R7). -/
def be16 (v : BitVec 128) : Block :=
  quadMap unpackWord (unpackQuad v)

/-- A block with its bytes in the opposite order: the little-endian reading is the big-endian
reading of it (44_modes.md R154). -/
def reverseBlock (b : Block) : Block :=
  blockOfBytes fun i => byteAt b (15 - i)

end Sys2Proof.Machine
end

