-- ==== Sys2Proof/Syntax.lean ====
section
/-! DEFINITION. The engine's commands (30_encoding.md R66): one constructor per row of
spec/opcode_table.json, its operands as R65 assembles them. -/

namespace Sys2Proof

/-- CTRL.MODE and the MODE field of MODE_INIT (10_state.md R22, 30_encoding.md R64). -/
inductive Mode where
  /-- 0 -/
  | ecb
  /-- 1 -/
  | cbc
  /-- 2 -/
  | ofb
  /-- 3 -/
  | ctr
  deriving DecidableEq, Repr

/-- CTRL.DIR and the DIR field of MODE_INIT (R22, R64). -/
inductive Dir where
  /-- 0 -/
  | enc
  /-- 1 -/
  | dec
  deriving DecidableEq, Repr

/-- The block functions CTRL.OP selects (44_modes.md R151). The fourth value of the field is
reserved: MODE_INIT refuses it, and CTRL never holds it (R22). -/
inductive BlockOp where
  /-- 0: the AES-128 forward cipher. -/
  | fwd
  /-- 1: the AES-128 inverse cipher. -/
  | inv
  /-- 2: the identity stand-in. -/
  | ident
  deriving DecidableEq, Repr

/-- Why a command word is illegal (R67, R68). -/
inductive IllegalKind where
  /-- OPC is not in R66 (info 1). -/
  | unassignedOpc
  /-- A bit the format marks 0 is 1 (info 2). -/
  | reservedBit
  /-- MODE_INIT with OP = 3 (info 3). -/
  | reservedOp
  deriving DecidableEq, Repr

/-- The 18 commands. -/
inductive Instr where
  | subBytes
  | invSubBytes
  | shiftRows
  | invShiftRows
  | mixColumns
  | invMixColumns
  /-- RND, any of 0..15: 11 to 15 decode, and the command refuses them itself (R62, R69). -/
  | addRoundKey (rnd : BitVec 4)
  | encRound (rnd : BitVec 4)
  | decRound (rnd : BitVec 4)
  | encryptBlock
  | decryptBlock
  | gfMul (a b : Byte)
  | sboxRead (a : Byte)
  | invSboxRead (a : Byte)
  | keyExpand
  /-- The OP field as it stands in the word; 3 is no well-formed operand (R64, R68). -/
  | modeInit (mode : Mode) (dir : Dir) (op : BitVec 2)
  | modeBlock
  | softReset
  deriving DecidableEq, Repr

end Sys2Proof
end

