-- ==== Sys2Proof/WellFormed.lean ====
section
/-! DEFINITION. Which terms of `Instr` are commands of the engine: those whose fields the encoding
admits (30_encoding.md R64, R68). RND, A and B take every value of their fields (R62, R63). -/

namespace Sys2Proof

/-- MODE_INIT with OP = 3 is an illegal word (R68); every other term is a command. -/
def Instr.wellFormed : Instr → Bool
  | .modeInit _ _ op => op != 3
  | .subBytes => true
  | .invSubBytes => true
  | .shiftRows => true
  | .invShiftRows => true
  | .mixColumns => true
  | .invMixColumns => true
  | .addRoundKey _ => true
  | .encRound _ => true
  | .decRound _ => true
  | .encryptBlock => true
  | .decryptBlock => true
  | .gfMul _ _ => true
  | .sboxRead _ => true
  | .invSboxRead _ => true
  | .keyExpand => true
  | .modeBlock => true
  | .softReset => true

end Sys2Proof
end

