-- ==== Sys2Proof/Decode.lean ====
section
/-! DEFINITION. From a command word to a command or to ILLEGAL, and back (30_encoding.md R60 to R68).
Decoding is total: every 32-bit word decodes to exactly one command or to ILLEGAL (R67). -/

namespace Sys2Proof

/-- The formats of R61 to R64; `g1` is the variant of G that uses A only (R63). -/
inductive Format where
  | n
  | r
  | g
  | g1
  | m
  deriving DecidableEq, Repr

/-- The bits a format fixes, OPC among them (R61 to R64, column `mask` of R66). -/
def formatMask : Format → Word
  | .n => 0xFFFFFFFF#32
  | .r => 0xFFFFF0FF#32
  | .g => 0x0000FFFF#32
  | .g1 => 0xFF00FFFF#32
  | .m => 0xFFE0FFFF#32

/-- OPC = cmd[5:0] (R60). -/
def fieldOpc (cmd : Word) : BitVec 6 := cmd.extractLsb' 0 6

/-- RND = cmd[11:8] (R62, R65). -/
def fieldRnd (cmd : Word) : BitVec 4 := cmd.extractLsb' 8 4

/-- A = cmd[23:16] (R63, R65). -/
def fieldA (cmd : Word) : Byte := cmd.extractLsb' 16 8

/-- B = cmd[31:24] (R63, R65). -/
def fieldB (cmd : Word) : Byte := cmd.extractLsb' 24 8

/-- The MODE field's values (R64). -/
def modeOfBits (v : BitVec 2) : Mode :=
  if v = 0 then .ecb else if v = 1 then .cbc else if v = 2 then .ofb else .ctr

/-- The value of a mode in the field (R64, R22). -/
def modeBits : Mode → BitVec 2
  | .ecb => 0
  | .cbc => 1
  | .ofb => 2
  | .ctr => 3

/-- The DIR field's values (R64). -/
def dirOfBit (v : BitVec 1) : Dir := if v = 0 then .enc else .dec

/-- The value of a direction in the field (R64, R22). -/
def dirBit : Dir → BitVec 1
  | .enc => 0
  | .dec => 1

/-- The OP field's values: 3 is reserved (R64). -/
def blockOpOfBits (v : BitVec 2) : Option BlockOp :=
  if v = 0 then some .fwd else if v = 1 then some .inv else if v = 2 then some .ident else none

/-- The value of a block function in the field (R64, R22). -/
def blockOpBits : BlockOp → BitVec 2
  | .fwd => 0
  | .inv => 1
  | .ident => 2

/-- MODE = cmd[17:16] (R64, R65). -/
def fieldMode (cmd : Word) : Mode := modeOfBits (cmd.extractLsb' 16 2)

/-- DIR = cmd[18] (R64, R65). -/
def fieldDir (cmd : Word) : Dir := dirOfBit (cmd.extractLsb' 18 1)

/-- OP = cmd[20:19] (R64, R65). -/
def fieldOp (cmd : Word) : BitVec 2 := cmd.extractLsb' 19 2

/-- A row of the opcode map: the OPC, the format, and the command its operands make. -/
structure OpcodeRow where
  opc : BitVec 6
  format : Format
  command : Word → Instr

/-- The opcode map of R66, in its order. -/
def opcodeMap : List OpcodeRow :=
  [ ⟨0x01#6, .n, fun _ => .subBytes⟩,
    ⟨0x02#6, .n, fun _ => .invSubBytes⟩,
    ⟨0x03#6, .n, fun _ => .shiftRows⟩,
    ⟨0x04#6, .n, fun _ => .invShiftRows⟩,
    ⟨0x05#6, .n, fun _ => .mixColumns⟩,
    ⟨0x06#6, .n, fun _ => .invMixColumns⟩,
    ⟨0x07#6, .r, fun cmd => .addRoundKey (fieldRnd cmd)⟩,
    ⟨0x08#6, .r, fun cmd => .encRound (fieldRnd cmd)⟩,
    ⟨0x09#6, .r, fun cmd => .decRound (fieldRnd cmd)⟩ ] ++
  [ ⟨0x0A#6, .n, fun _ => .encryptBlock⟩,
    ⟨0x0B#6, .n, fun _ => .decryptBlock⟩,
    ⟨0x10#6, .g, fun cmd => .gfMul (fieldA cmd) (fieldB cmd)⟩,
    ⟨0x11#6, .g1, fun cmd => .sboxRead (fieldA cmd)⟩,
    ⟨0x12#6, .g1, fun cmd => .invSboxRead (fieldA cmd)⟩,
    ⟨0x18#6, .n, fun _ => .keyExpand⟩,
    ⟨0x20#6, .m, fun cmd => .modeInit (fieldMode cmd) (fieldDir cmd) (fieldOp cmd)⟩,
    ⟨0x21#6, .n, fun _ => .modeBlock⟩,
    ⟨0x3F#6, .n, fun _ => .softReset⟩ ]

/-- What a command word decodes to (R67). -/
inductive Decoded where
  | command (i : Instr)
  | illegal (k : IllegalKind)
  deriving DecidableEq, Repr

/-- R67: the OPC first, then the bits the format fixes, then the reserved OP value of format M. -/
def decode (cmd : Word) : Decoded :=
  match opcodeMap.find? (fun row => row.opc == fieldOpc cmd) with
  | none => .illegal .unassignedOpc
  | some row =>
    if cmd &&& formatMask row.format ≠ row.opc.setWidth 32 then .illegal .reservedBit
    else if row.format = .m ∧ fieldOp cmd = 3 then .illegal .reservedOp
    else .command (row.command cmd)

/-- The OPC of a command (R66). -/
def opcOf : Instr → BitVec 6
  | .subBytes => 0x01#6
  | .invSubBytes => 0x02#6
  | .shiftRows => 0x03#6
  | .invShiftRows => 0x04#6
  | .mixColumns => 0x05#6
  | .invMixColumns => 0x06#6
  | .addRoundKey _ => 0x07#6
  | .encRound _ => 0x08#6
  | .decRound _ => 0x09#6
  | .encryptBlock => 0x0A#6
  | .decryptBlock => 0x0B#6
  | .gfMul _ _ => 0x10#6
  | .sboxRead _ => 0x11#6
  | .invSboxRead _ => 0x12#6
  | .keyExpand => 0x18#6
  | .modeInit _ _ _ => 0x20#6
  | .modeBlock => 0x21#6
  | .softReset => 0x3F#6

/-- Format N (R61). -/
def wordN (opc : BitVec 6) : Word := 0#26 ++ opc

/-- Format R (R62). -/
def wordR (opc : BitVec 6) (rnd : BitVec 4) : Word := 0#20 ++ rnd ++ 0#2 ++ opc

/-- Format G, and G1 with B = 0 (R63). -/
def wordG (opc : BitVec 6) (a b : Byte) : Word := b ++ a ++ 0#10 ++ opc

/-- Format M (R64). -/
def wordM (opc : BitVec 6) (mode : Mode) (dir : Dir) (op : BitVec 2) : Word :=
  0#11 ++ op ++ dirBit dir ++ modeBits mode ++ 0#10 ++ opc

/-- The word of a command, laid out by the format tables of R61 to R64 (R70: one line, one word). -/
def encode (i : Instr) : Word :=
  match i with
  | .subBytes => wordN (opcOf i)
  | .invSubBytes => wordN (opcOf i)
  | .shiftRows => wordN (opcOf i)
  | .invShiftRows => wordN (opcOf i)
  | .mixColumns => wordN (opcOf i)
  | .invMixColumns => wordN (opcOf i)
  | .addRoundKey rnd => wordR (opcOf i) rnd
  | .encRound rnd => wordR (opcOf i) rnd
  | .decRound rnd => wordR (opcOf i) rnd
  | .encryptBlock => wordN (opcOf i)
  | .decryptBlock => wordN (opcOf i)
  | .gfMul a b => wordG (opcOf i) a b
  | .sboxRead a => wordG (opcOf i) a 0
  | .invSboxRead a => wordG (opcOf i) a 0
  | .keyExpand => wordN (opcOf i)
  | .modeInit mode dir op => wordM (opcOf i) mode dir op
  | .modeBlock => wordN (opcOf i)
  | .softReset => wordN (opcOf i)

/-- The command the decoder reads from a row of spec/opcode_table.json with bits `w`: a command is
one 32-bit word, every bit above `nbits` is 0, and no command is longer than 32 bits (R60). -/
def decodeTableWord (nbits w : Nat) : Option Instr :=
  if nbits ≤ 32 then
    match decode (BitVec.ofNat 32 (w % 2 ^ nbits)) with
    | .command i => some i
    | .illegal _ => none
  else none

end Sys2Proof
end

