-- ==== Sys2Proof/Machine/State.lean ====
section
/-! DEFINITION. Everything the spec gives the machine, as plain data (10_state.md R12 to R30,
20_memory.md R42), the reasons a step can stop, and the state after reset (70_reset_and_hazards.md R240). -/

namespace Sys2Proof.Machine

/-- A 32-bit word of a data register. R27: a byte that nothing has written since reset has an
unspecified value; every write covers whole words, so one mark a word says it (assumption 3). The
bytes under a cleared mark are a placeholder that no command and no read consults (assumption 1). -/
structure DataWord where
  bytes : Column
  written : Bool
  deriving DecidableEq, Repr

/-- The 128-bit data registers held as bytes (R12). -/
inductive DataReg where
  | state
  | key
  | din
  | dout
  | iv
  | chain
  deriving DecidableEq, Repr

/-- The words of the register window (20_memory.md R42). -/
inductive WindowReg where
  | cmd
  | status
  | len
  | ctrl
  | rkcnt
  | gfr
  /-- Word `j` of a 128-bit data register. -/
  | data (r : DataReg) (j : Fin 4)
  /-- Word `j` of the block index: BLKIDX0 holds bits [127:96]. -/
  | blkIdx (j : Fin 4)
  /-- Key-schedule word W[i]. -/
  | roundWord (i : Fin 44)
  deriving DecidableEq, Repr

/-- The width of a host access: only 32 bits is allowed (R43). -/
inductive AccessWidth where
  | bits8
  | bits16
  | bits32
  deriving DecidableEq, Repr

/-- What reaches the engine from outside: the host's accesses at a byte offset in the window
(R53), and the platform's reset input (R240, U12). -/
inductive HostEvent where
  | read (width : AccessWidth) (off : Nat)
  | write (width : AccessWidth) (off : Nat) (v : Word)
  | reset
  deriving DecidableEq, Repr

/-- The error causes a command can raise (60_exceptions.md R211). RANGE info 2 is reserved and
never written (R123), so it is no cause here. -/
inductive Cause where
  /-- ERR 1, info by the kind. -/
  | illegal (k : IllegalKind)
  /-- ERR 2, info 1: the block length. -/
  | blockLength
  /-- ERR 2, info 2: the key length. -/
  | keyLength
  /-- ERR 2, info 3: the round-key count. -/
  | roundKeyCount
  /-- ERR 2, info 4: the IV length in CBC or OFB. -/
  | ivLength
  /-- ERR 2, info 5: the nonce length in CTR. -/
  | nonceLength
  /-- ERR 3, info 1: the round index. -/
  | roundIndex
  /-- ERR 4, info 0: MODE_BLOCK with no active mode. -/
  | noMode
  deriving DecidableEq, Repr

/-- The faults of the model. -/
inductive Fault where
  /-- Raised by a host access of another width than 32 bits, at an offset that is no multiple of 4,
  or at an offset R42 does not map (20_memory.md R43, 60_exceptions.md R219). The engine's state does
  not change. Safe: the model stops where the bus answers with an error (assumption 15). -/
  | busError
  deriving DecidableEq, Repr

/-- The refusals of the model. -/
inductive Refusal where
  /-- Raised by an arm of `exec` whose command has no meaning yet; no arm does. Safe. -/
  | notModelled (mnemonic : String)
  deriving DecidableEq, Repr

/-- The machine: the registers of R12, and the host's side of the bus. -/
structure State where
  /-- STATUS.ERR (R23). -/
  err : BitVec 4
  /-- STATUS.ERR_OPC (R23). -/
  errOpc : BitVec 6
  /-- STATUS.ERR_INFO (R23). -/
  errInfo : BitVec 3
  /-- LEN.DIN_LEN (R24). -/
  dinLen : Byte
  /-- LEN.KEY_LEN (R24). -/
  keyLen : Byte
  /-- LEN.IV_LEN (R24). -/
  ivLen : Byte
  /-- LEN.DOUT_LEN (R24, R16). -/
  doutLen : Byte
  /-- CTRL.MODE (R22). -/
  mode : Mode
  /-- CTRL.DIR (R22). -/
  dir : Dir
  /-- CTRL.OP (R22). -/
  op : BlockOp
  /-- CTRL.ACTIVE (R22). -/
  active : Bool
  /-- RKCNT.RK_COUNT (R18). -/
  rkCount : BitVec 4
  /-- GFR[7:0] (R25). -/
  gfr : Byte
  /-- STATE (R13). -/
  stateReg : Quad DataWord
  /-- KEY (R14). -/
  keyReg : Quad DataWord
  /-- DIN (R15). -/
  din : Quad DataWord
  /-- DOUT (R16). -/
  dout : Quad DataWord
  /-- IV (R19). -/
  iv : Quad DataWord
  /-- CHAIN (R20). -/
  chain : Quad DataWord
  /-- BLKIDX (R21). -/
  blkIdx : BitVec 128
  /-- The round-key file W[0..43] (R17). -/
  w : Vector DataWord 44
  /-- The model's own: the host's accesses not yet performed, in issue order (R10, R47; assumption 5). -/
  pending : List HostEvent
  /-- The model's own: the words the host's reads returned, oldest first (R233; assumption 6). -/
  observed : List Word
  /-- The model's own: the number of host accesses performed, which numbers the draws of unwritten
  bytes (R27; assumption 4). -/
  draws : Nat
  deriving DecidableEq, Repr

/-- A word nothing has written since reset (R27). The placeholder 0x00 is assumption 1. -/
def DataWord.unwritten : DataWord := ⟨⟨0, 0, 0, 0⟩, false⟩

/-- A 128-bit data register after reset (R12, R240). -/
def unwrittenReg : Quad DataWord :=
  ⟨.unwritten, .unwritten, .unwritten, .unwritten⟩

/-- The machine right after reset (R240): the control registers 0, the data registers unwritten,
no host access waiting. -/
def State.reset : State where
  err := 0
  errOpc := 0
  errInfo := 0
  dinLen := 0
  keyLen := 0
  ivLen := 0
  doutLen := 0
  mode := .ecb
  dir := .enc
  op := .fwd
  active := false
  rkCount := 0
  gfr := 0
  stateReg := unwrittenReg
  keyReg := unwrittenReg
  din := unwrittenReg
  dout := unwrittenReg
  iv := unwrittenReg
  chain := unwrittenReg
  blkIdx := 0
  w := Vector.replicate 44 .unwritten
  pending := []
  observed := []
  draws := 0

end Sys2Proof.Machine
end

