-- ==== Sys2Proof/Machine/Flags.lean ====
section
/-! DEFINITION. The two flags a command reads (10_state.md R28), the code and info of an error cause
(60_exceptions.md R211), and the control registers as the words the host reads (R18, R22 to R25). -/

namespace Sys2Proof.Machine

/-- The error-pending flag, `STATUS.ERR ≠ 0` (R28). -/
def errorPending (s : State) : Bool :=
  s.err != 0

/-- The mode-active flag, CTRL.ACTIVE (R28). -/
def modeActive (s : State) : Bool :=
  s.active

/-- STATUS.ERR of a cause (R211). -/
def causeCode : Cause → BitVec 4
  | .illegal _ => 1
  | .blockLength => 2
  | .keyLength => 2
  | .roundKeyCount => 2
  | .ivLength => 2
  | .nonceLength => 2
  | .roundIndex => 3
  | .noMode => 4

/-- STATUS.ERR_INFO of a cause (R211). -/
def causeInfo : Cause → BitVec 3
  | .illegal .unassignedOpc => 1
  | .illegal .reservedBit => 2
  | .illegal .reservedOp => 3
  | .blockLength => 1
  | .keyLength => 2
  | .roundKeyCount => 3
  | .ivLength => 4
  | .nonceLength => 5
  | .roundIndex => 1
  | .noMode => 0

/-- STATUS: ERR in [3:0], ERR_OPC in [13:8], ERR_INFO in [18:16], every other bit 0 (R23). -/
def statusWord (s : State) : Word :=
  0#13 ++ s.errInfo ++ 0#2 ++ s.errOpc ++ 0#4 ++ s.err

/-- LEN: DIN_LEN, KEY_LEN, IV_LEN, DOUT_LEN from bit 0 up (R24). -/
def lenWord (s : State) : Word :=
  s.doutLen ++ s.ivLen ++ s.keyLen ++ s.dinLen

/-- CTRL: MODE in [1:0], DIR in [2], OP in [4:3], ACTIVE in [7], every other bit 0 (R22). -/
def ctrlWord (s : State) : Word :=
  0#24 ++ BitVec.ofBool s.active ++ 0#2 ++ blockOpBits s.op ++ dirBit s.dir ++ modeBits s.mode

/-- RKCNT: RK_COUNT in [3:0], every other bit 0 (R18). -/
def rkcntWord (s : State) : Word :=
  0#28 ++ s.rkCount

/-- GFR: the result byte in [7:0], every other bit 0 (R25). -/
def gfrWord (s : State) : Word :=
  0#24 ++ s.gfr

end Sys2Proof.Machine
end

