-- ==== Sys2Proof/Machine/Ops.lean ====
section
/-! DEFINITION. The named operations on the registers, raising an error and returning from one
(60_exceptions.md R212, R217), and what every command but SOFT_RESET does around its own effect
(R213 to R215). -/

namespace Sys2Proof.Machine

/-- A 128-bit data register. -/
def State.reg (s : State) : DataReg → Quad DataWord
  | .state => s.stateReg
  | .key => s.keyReg
  | .din => s.din
  | .dout => s.dout
  | .iv => s.iv
  | .chain => s.chain

/-- A 128-bit data register replaced. -/
def State.setReg (s : State) (r : DataReg) (q : Quad DataWord) : State :=
  match r with
  | .state => { s with stateReg := q }
  | .key => { s with keyReg := q }
  | .din => { s with din := q }
  | .dout => { s with dout := q }
  | .iv => { s with iv := q }
  | .chain => { s with chain := q }

/-- A word that has been written (R27: writes make bytes present). -/
def present (c : Column) : DataWord :=
  ⟨c, true⟩

/-- `REG <- b` for a 128-bit data register: all its bytes become present (R27). -/
def State.putBlock (s : State) (r : DataReg) (b : Block) : State :=
  s.setReg r (quadMap present b)

/-- A host write of one word of a 128-bit data register (20_memory.md R42, R45). -/
def State.putWord (s : State) (r : DataReg) (j : Fin 4) (v : Word) : State :=
  s.setReg r (quadSet (s.reg r) j (present (unpackWord v)))

/-- A host write of W[i] (R42, R45). -/
def State.putRoundWord (s : State) (i : Fin 44) (v : Word) : State :=
  { s with w := s.w.set i (present (unpackWord v)) }

/-- All 44 words of the round-key file written (42_key_schedule.md R124). -/
def State.putRoundKeys (s : State) (ws : Vector Column 44) : State :=
  { s with w := Vector.ofFn fun i : Fin 44 => present ws[i] }

/-- DOUT and DOUT_LEN, which are always written together (10_state.md R16). -/
def State.putOutput (s : State) (out : Block) (len : Byte) : State :=
  { s.putBlock .dout out with doutLen := len }

/-- `raise Error(code, info)`: the error record, and no other state (R212). -/
def State.raise (s : State) (opc : BitVec 6) (c : Cause) : State :=
  { s with err := causeCode c, errOpc := opc, errInfo := causeInfo c }

/-- The return from an error: the record cleared, nothing else (45_control.md R182, R217). -/
def State.clearError (s : State) : State :=
  { s with err := 0, errOpc := 0, errInfo := 0 }

/-- The control registers at their reset values, the data registers kept (R180, R242). -/
def State.clearControl (s : State) : State :=
  { s.clearError with
    dinLen := 0, keyLen := 0, ivLen := 0, doutLen := 0
    mode := .ecb, dir := .enc, op := .fwd, active := false
    rkCount := 0, gfr := 0, blkIdx := 0 }

/-- The first of a command's checks that fails, in the order given (R215). -/
def firstError : List (Bool × Cause) → Option Cause
  | [] => none
  | (failed, c) :: rest => if failed then some c else firstError rest

/-- What every command but SOFT_RESET does: it is dropped while an error is pending (R214); its checks
are made before any write, and the first that fails is recorded and nothing else (R213, R215);
otherwise it makes the writes of its rule. -/
def command (i : Instr) (checks : List (Bool × Cause)) (effect : State → State) (s : State) :
    Host.Outcome State Fault Refusal :=
  if errorPending s then .next s
  else
    match firstError checks with
    | some c => .next (s.raise (opcOf i) c)
    | none => .next (effect s)

/-- An illegal command word: dropped while an error is pending, else `Error(ILLEGAL, info)` with the
OPC field as written (R212, R214, 30_encoding.md R68). -/
def illegalCommand (opc : BitVec 6) (k : IllegalKind) (s : State) :
    Host.Outcome State Fault Refusal :=
  if errorPending s then .next s else .next (s.raise opc (.illegal k))

/-- One access after another: a fault or a refusal stops the sequence. -/
def andThen (o : Host.Outcome State Fault Refusal) (f : State → Host.Outcome State Fault Refusal) :
    Host.Outcome State Fault Refusal :=
  match o with
  | .next s => f s
  | .fault r => .fault r
  | .refused r => .refused r

end Sys2Proof.Machine
end

