-- ==== Sys2Proof/Machine/Operands.lean ====
section
/-! DEFINITION. The operand forms: the values a command or a host read finds in the data registers,
absent bytes as free values (10_state.md R27), the round keys (R17), and the checks on lengths,
counts and indices (60_exceptions.md R211, R215). -/

namespace Sys2Proof.Machine

/-- The window offset of a 128-bit data register (20_memory.md R42). -/
def regOffset : DataReg → Nat
  | .state => 0x020
  | .key => 0x030
  | .din => 0x040
  | .dout => 0x050
  | .iv => 0x060
  | .chain => 0x070

/-- FREE VALUE: what the four bytes at a window offset hold when nothing has written them (R27;
assumption 2). -/
def freeColumn (draw off : Nat) : Column :=
  columnOf fun k => Config.freeByte draw (off + k)

/-- The bytes of a data word as an access finds them: those written, or free values (R27). -/
def contents (draw off : Nat) (d : DataWord) : Column :=
  if d.written then d.bytes else freeColumn draw off

/-- Word `j` of a 128-bit data register as an access finds it. -/
def State.dataWord (s : State) (r : DataReg) (j : Fin 4) : Column :=
  contents s.draws (regOffset r + 4 * j.val) (quadGet (s.reg r) j)

/-- A 128-bit data register as a block (R13 to R16, R19, R20). -/
def State.block (s : State) (r : DataReg) : Block :=
  ⟨s.dataWord r 0, s.dataWord r 1, s.dataWord r 2, s.dataWord r 3⟩

/-- Key-schedule word W[i] as an access finds it (R17). -/
def State.roundWord (s : State) (i : Fin 44) : Column :=
  contents s.draws (0x100 + 4 * i.val) s.w[i]

/-- Round key `r`, for `r` in 0..10: `RK[r] = W[4r] || W[4r+1] || W[4r+2] || W[4r+3]` (R17). -/
def State.roundKey (s : State) (r : Nat) : Block :=
  ⟨s.roundWord (Fin.ofNat 44 (4 * r)), s.roundWord (Fin.ofNat 44 (4 * r + 1)),
   s.roundWord (Fin.ofNat 44 (4 * r + 2)), s.roundWord (Fin.ofNat 44 (4 * r + 3))⟩

/-- RND > 10 (41_state_transforms.md R113). -/
def badRoundIndex (rnd : BitVec 4) : Bool × Cause :=
  (decide (rnd.toNat > 10), .roundIndex)

/-- RK_COUNT ≠ 11 (10_state.md R18). -/
def badRoundKeyCount (s : State) : Bool × Cause :=
  (s.rkCount != 11, .roundKeyCount)

/-- DIN_LEN ≠ 16 (43_block_engine.md R137). -/
def badBlockLength (s : State) : Bool × Cause :=
  (s.dinLen != 16, .blockLength)

/-- KEY_LEN ≠ 16 (42_key_schedule.md R124). -/
def badKeyLength (s : State) : Bool × Cause :=
  (s.keyLen != 16, .keyLength)

/-- The checks of the commands that name a round: RANGE, then LENGTH (R113, R135, R136). -/
def roundChecks (rnd : BitVec 4) (s : State) : List (Bool × Cause) :=
  [badRoundIndex rnd, badRoundKeyCount s]

/-- The checks of the block commands: block length, then round-key count (R137, R138). -/
def blockChecks (s : State) : List (Bool × Cause) :=
  [badBlockLength s, badRoundKeyCount s]

end Sys2Proof.Machine
end

