-- ==== Sys2Proof/Machine/Transforms.lean ====
section
/-! DEFINITION. The state transforms as functions of the pre-step block, and the seven commands that
run them on STATE (41_state_transforms.md; 70_reset_and_hazards.md R252). -/

namespace Sys2Proof.Machine

/-- `SubBytes(b)[i] = SBOX[b[i]]` (R100). -/
def subBytes (b : Block) : Block :=
  blockMap sbox b

/-- `InvSubBytes(b)[i] = INV_SBOX[b[i]]` (R102). -/
def invSubBytes (b : Block) : Block :=
  blockMap invSbox b

/-- `s'[r][c] = s[r][(c + r) mod 4]` (R104). -/
def shiftRows (b : Block) : Block :=
  blockOfCells fun r c => cell b r ((c + r) % 4)

/-- `s'[r][c] = s[r][(c - r) mod 4]` (R106). -/
def invShiftRows (b : Block) : Block :=
  blockOfCells fun r c => cell b r ((c + 4 - r) % 4)

/-- One column times the forward matrix (R108). -/
def mixColumn (a : Column) : Column :=
  ⟨gmul 2 a.a0 ^^^ gmul 3 a.a1 ^^^ a.a2 ^^^ a.a3,
   a.a0 ^^^ gmul 2 a.a1 ^^^ gmul 3 a.a2 ^^^ a.a3,
   a.a0 ^^^ a.a1 ^^^ gmul 2 a.a2 ^^^ gmul 3 a.a3,
   gmul 3 a.a0 ^^^ a.a1 ^^^ a.a2 ^^^ gmul 2 a.a3⟩

/-- `MixColumns(b)` (R108). -/
def mixColumns (b : Block) : Block :=
  quadMap mixColumn b

/-- One column times the inverse matrix (R110). -/
def invMixColumn (a : Column) : Column :=
  ⟨gmul 0x0E a.a0 ^^^ gmul 0x0B a.a1 ^^^ gmul 0x0D a.a2 ^^^ gmul 0x09 a.a3,
   gmul 0x09 a.a0 ^^^ gmul 0x0E a.a1 ^^^ gmul 0x0B a.a2 ^^^ gmul 0x0D a.a3,
   gmul 0x0D a.a0 ^^^ gmul 0x09 a.a1 ^^^ gmul 0x0E a.a2 ^^^ gmul 0x0B a.a3,
   gmul 0x0B a.a0 ^^^ gmul 0x0D a.a1 ^^^ gmul 0x09 a.a2 ^^^ gmul 0x0E a.a3⟩

/-- `InvMixColumns(b)` (R110). -/
def invMixColumns (b : Block) : Block :=
  quadMap invMixColumn b

/-- `AddRoundKey(b, k)[i] = b[i] ^ k[i]` (R112). -/
def addRoundKey (b k : Block) : Block :=
  xorBlock b k

/-- `STATE <- f(STATE)`: STATE and nothing else is written (10_state.md R30). -/
def State.mapState (f : Block → Block) (s : State) : State :=
  s.putBlock .state (f (s.block .state))

/-- SUB_BYTES (R101). -/
def execSubBytes (s : State) : Host.Outcome State Fault Refusal :=
  command .subBytes [] (State.mapState subBytes) s

/-- INV_SUB_BYTES (R103). -/
def execInvSubBytes (s : State) : Host.Outcome State Fault Refusal :=
  command .invSubBytes [] (State.mapState invSubBytes) s

/-- SHIFT_ROWS (R105). -/
def execShiftRows (s : State) : Host.Outcome State Fault Refusal :=
  command .shiftRows [] (State.mapState shiftRows) s

/-- INV_SHIFT_ROWS (R107). -/
def execInvShiftRows (s : State) : Host.Outcome State Fault Refusal :=
  command .invShiftRows [] (State.mapState invShiftRows) s

/-- MIX_COLUMNS (R109). -/
def execMixColumns (s : State) : Host.Outcome State Fault Refusal :=
  command .mixColumns [] (State.mapState mixColumns) s

/-- INV_MIX_COLUMNS (R111). -/
def execInvMixColumns (s : State) : Host.Outcome State Fault Refusal :=
  command .invMixColumns [] (State.mapState invMixColumns) s

/-- ADD_ROUND_KEY: RANGE, then LENGTH, then `STATE <- AddRoundKey(STATE, RK[RND])` (R113). -/
def execAddRoundKey (rnd : BitVec 4) (s : State) : Host.Outcome State Fault Refusal :=
  command (.addRoundKey rnd) (roundChecks rnd s)
    (State.mapState fun b => addRoundKey b (s.roundKey rnd.toNat)) s

end Sys2Proof.Machine
end

