-- ==== Sys2Proof/Machine/BlockEngine.lean ====
section
/-! DEFINITION. The rounds, the forward and inverse ciphers over round keys `RK[0..10]`, and the round
and block commands (43_block_engine.md). -/

namespace Sys2Proof.Machine

/-- `EncRound(s, r)`, round `r` in 0..10 of the forward cipher (R130). -/
def encRound (rk : Nat → Block) (b : Block) (r : Nat) : Block :=
  if r = 0 then addRoundKey b (rk 0)
  else if r < 10 then addRoundKey (mixColumns (shiftRows (subBytes b))) (rk r)
  else addRoundKey (shiftRows (subBytes b)) (rk r)

/-- `DecRound(s, r)`, the step of the inverse cipher that uses round key `r` in 0..10 (R131). -/
def decRound (rk : Nat → Block) (b : Block) (r : Nat) : Block :=
  if r = 0 then addRoundKey (invSubBytes (invShiftRows b)) (rk 0)
  else if r < 10 then invMixColumns (addRoundKey (invSubBytes (invShiftRows b)) (rk r))
  else addRoundKey b (rk r)

/-- The rounds of the forward cipher in order: 0, 1, ..., 10 (R132). -/
def encOrder : List Nat :=
  [0, 1, 2, 3, 4, 5, 6, 7, 8, 9, 10]

/-- The steps of the inverse cipher in order: 10, 9, ..., 0 (R133). -/
def decOrder : List Nat :=
  [10, 9, 8, 7, 6, 5, 4, 3, 2, 1, 0]

/-- `Cipher(in)` (R132). -/
def cipher (rk : Nat → Block) (b : Block) : Block :=
  encOrder.foldl (encRound rk) b

/-- `InvCipher(in)` (R133). -/
def invCipher (rk : Nat → Block) (b : Block) : Block :=
  decOrder.foldl (decRound rk) b

/-- `STATE <- y`, `DOUT <- STATE`, `DOUT_LEN <- 16` (R137, R138). -/
def State.blockResult (s : State) (y : Block) : State :=
  (s.putBlock .state y).putOutput y 16

/-- ENC_ROUND: RANGE, then LENGTH, then `STATE <- EncRound(STATE, RND)` (R135). -/
def execEncRound (rnd : BitVec 4) (s : State) : Host.Outcome State Fault Refusal :=
  command (.encRound rnd) (roundChecks rnd s)
    (State.mapState fun b => encRound s.roundKey b rnd.toNat) s

/-- DEC_ROUND: RANGE, then LENGTH, then `STATE <- DecRound(STATE, RND)` (R136). -/
def execDecRound (rnd : BitVec 4) (s : State) : Host.Outcome State Fault Refusal :=
  command (.decRound rnd) (roundChecks rnd s)
    (State.mapState fun b => decRound s.roundKey b rnd.toNat) s

/-- ENCRYPT_BLOCK (R137). -/
def execEncryptBlock (s : State) : Host.Outcome State Fault Refusal :=
  command .encryptBlock (blockChecks s)
    (fun s => s.blockResult (cipher s.roundKey (s.block .din))) s

/-- DECRYPT_BLOCK (R138). -/
def execDecryptBlock (s : State) : Host.Outcome State Fault Refusal :=
  command .decryptBlock (blockChecks s)
    (fun s => s.blockResult (invCipher s.roundKey (s.block .din))) s

end Sys2Proof.Machine
end

