-- ==== Sys2Proof/Machine/Control.lean ====
section
/-! DEFINITION. SOFT_RESET (45_control.md R180). -/

namespace Sys2Proof.Machine

/-- SOFT_RESET: the control registers to their reset values, the data registers kept; the one command
that runs while an error is pending (R180, 60_exceptions.md R214). -/
def execSoftReset (s : State) : Host.Outcome State Fault Refusal :=
  .next s.clearControl

end Sys2Proof.Machine
end

