-- ==== Sys2Proof/Machine/KeySchedule.lean ====
section
/-! DEFINITION. The key schedule expander and KEY_EXPAND (42_key_schedule.md). -/

namespace Sys2Proof.Machine

/-- `RotWord(a0, a1, a2, a3) = (a1, a2, a3, a0)` (R120). -/
def rotWord (a : Column) : Column :=
  ⟨a.a1, a.a2, a.a3, a.a0⟩

/-- `SubWord`: the S-box on each byte (R121). -/
def subWord (a : Column) : Column :=
  quadMap sbox a

/-- The `temp` of word `i` (R122): the word before it, or, where `i mod 4 = 0`, that word rotated,
substituted, and its first byte XORed with `RCON[i / 4]`. -/
def scheduleTemp (prev : Column) (i : Nat) : Column :=
  if i % 4 = 0 then
    { subWord (rotWord prev) with a0 := (subWord (rotWord prev)).a0 ^^^ rcon (i / 4) }
  else prev

/-- Word `i` of the file, for `i` in 0..43. -/
def wordAt (w : Vector Column 44) (i : Nat) : Column :=
  w[Fin.ofNat 44 i]

/-- `w[i] <- w[i-4] ^ temp` (R122). -/
def scheduleStep (w : Vector Column 44) (i : Nat) : Vector Column 44 :=
  w.set (Fin.ofNat 44 i) (xorColumn (wordAt w (i - 4)) (scheduleTemp (wordAt w (i - 1)) i))

/-- Words 0 to 3 are the key's four-byte chunks (R122). -/
def scheduleStart (key : Block) : Vector Column 44 :=
  ((((Vector.replicate 44 key.a0).set 0 key.a0).set 1 key.a1).set 2 key.a2).set 3 key.a3

/-- `KeyExpansion(key)`: 44 words (R122). -/
def keyExpansion (key : Block) : Vector Column 44 :=
  (List.range' 4 40).foldl scheduleStep (scheduleStart key)

/-- KEY_EXPAND: LENGTH (info 2) unless KEY_LEN = 16, then `W <- KeyExpansion(KEY)`, `RK_COUNT <- 11`
(R124). -/
def execKeyExpand (s : State) : Host.Outcome State Fault Refusal :=
  command .keyExpand [badKeyLength s]
    (fun s => { s.putRoundKeys (keyExpansion (s.block .key)) with rkCount := 11 }) s

end Sys2Proof.Machine
end

