-- ==== Sys2Proof/Machine/Modes.lean ====
section
/-! DEFINITION. The mode controller: MODE_INIT creates the mode context, MODE_BLOCK processes one block
of it (44_modes.md). -/

namespace Sys2Proof.Machine

/-- The CTR counter base from a nonce of `n` bytes, `IV[0..n-1]` (R153, R154). -/
def counterBase (order : NonceOrder) (iv : Block) (n : Nat) : Block :=
  match order with
  | .big => blockOfList (List.replicate (16 - n) 0 ++ (blockList iv).take n)
  | .little => blockOfList ((blockList iv).take n ++ List.replicate (16 - n) 0)

/-- The counter of block `i`: the base plus `i` modulo 2^128 (R154, R167, R169). -/
def counterBlock (order : NonceOrder) (base : Block) (i : BitVec 128) : Block :=
  match order with
  | .big => be16 (beInt base + i)
  | .little => reverseBlock (be16 (beInt (reverseBlock base) + i))

/-- `OPERATE(x)`, which CTRL.OP selects (R151). -/
def operate (op : BlockOp) (rk : Nat → Block) (x : Block) : Block :=
  match op with
  | .fwd => cipher rk x
  | .inv => invCipher rk x
  | .ident => x

/-- `xor_prefix(d, k, L)`: the first `L` bytes XORed, 0x00 after them (R160, R162). -/
def xorPrefix (d k : Block) (len : Nat) : Block :=
  blockOfBytes fun j => if j < len then byteAt d j ^^^ byteAt k j else 0

/-- The checks of MODE_INIT: IV length in CBC and OFB, nonce length in CTR, none in ECB (R153). -/
def modeInitChecks (mode : Mode) (s : State) : List (Bool × Cause) :=
  match mode with
  | .ecb => []
  | .cbc => [(s.ivLen != 16, .ivLength)]
  | .ofb => [(s.ivLen != 16, .ivLength)]
  | .ctr => [(decide (s.ivLen.toNat > 16), .nonceLength)]

/-- CHAIN as MODE_INIT leaves it: untouched in ECB (R153, R20). -/
def modeInitChain (mode : Mode) (s : State) : State :=
  match mode with
  | .ecb => s
  | .cbc => s.putBlock .chain (s.block .iv)
  | .ofb => s.putBlock .chain (s.block .iv)
  | .ctr => s.putBlock .chain (counterBase Config.ctrNonceOrder (s.block .iv) s.ivLen.toNat)

/-- The writes of MODE_INIT: CHAIN, CTRL and BLKIDX (R153). -/
def modeInitEffect (mode : Mode) (dir : Dir) (op : BlockOp) (s : State) : State :=
  { modeInitChain mode s with mode := mode, dir := dir, op := op, active := true, blkIdx := 0 }

/-- MODE_INIT (R153). OP = 3 is no operand: the word is illegal (info 3), which a decoded command
never is (30_encoding.md R67, R68; assumption 10). -/
def execModeInit (mode : Mode) (dir : Dir) (op : BitVec 2) (s : State) :
    Host.Outcome State Fault Refusal :=
  match blockOpOfBits op with
  | none => command (.modeInit mode dir op) [(true, .illegal .reservedOp)] (fun s => s) s
  | some f => command (.modeInit mode dir op) (modeInitChecks mode s) (modeInitEffect mode dir f) s

/-- A block length MODE_BLOCK refuses: not 16 in ECB and CBC, 0 or over 16 in OFB and CTR (R160, R161). -/
def badModeLength (mode : Mode) (len : Byte) : Bool :=
  match mode with
  | .ecb => len != 16
  | .cbc => len != 16
  | .ofb => len == 0 || decide (len.toNat > 16)
  | .ctr => len == 0 || decide (len.toNat > 16)

/-- Whether OPERATE reads the round keys (R160). -/
def opNeedsKeys (op : BlockOp) : Bool :=
  match op with
  | .fwd => true
  | .inv => true
  | .ident => false

/-- The checks of MODE_BLOCK, in order: NO_MODE, block length, round-key count (R160). -/
def modeBlockChecks (s : State) : List (Bool × Cause) :=
  [ (!modeActive s, .noMode),
    (badModeLength s.mode s.dinLen, .blockLength),
    (opNeedsKeys s.op && s.rkCount != 11, .roundKeyCount) ]

/-- `STATE <- y`, `DOUT <- out`, `DOUT_LEN <- L`, `BLKIDX <- BLKIDX + 1` (R160). -/
def State.modeResult (s : State) (y out : Block) : State :=
  { (s.putBlock .state y).putOutput out s.dinLen with blkIdx := s.blkIdx + 1 }

/-- ECB, both directions (R163). -/
def ecbBlock (s : State) : State :=
  let y := operate s.op s.roundKey (s.block .din)
  s.modeResult y y

/-- CBC encryption (R164). -/
def cbcEncBlock (s : State) : State :=
  let y := operate s.op s.roundKey (xorBlock (s.block .din) (s.block .chain))
  (s.modeResult y y).putBlock .chain y

/-- CBC decryption: the output reads CHAIN before CHAIN takes DIN (R165). -/
def cbcDecBlock (s : State) : State :=
  let y := operate s.op s.roundKey (s.block .din)
  (s.modeResult y (xorBlock y (s.block .chain))).putBlock .chain (s.block .din)

/-- OFB, both directions: CHAIN takes the whole keystream block (R162, R166). -/
def ofbBlock (s : State) : State :=
  let y := operate s.op s.roundKey (s.block .chain)
  (s.modeResult y (xorPrefix (s.block .din) y s.dinLen.toNat)).putBlock .chain y

/-- CTR, both directions: CHAIN is not changed (R167). -/
def ctrBlock (s : State) : State :=
  let y := operate s.op s.roundKey (counterBlock Config.ctrNonceOrder (s.block .chain) s.blkIdx)
  s.modeResult y (xorPrefix (s.block .din) y s.dinLen.toNat)

/-- One block of the active mode; only CBC reads CTRL.DIR (R160, R170). -/
def modeBlockEffect (s : State) : State :=
  match s.mode, s.dir with
  | .ecb, _ => ecbBlock s
  | .cbc, .enc => cbcEncBlock s
  | .cbc, .dec => cbcDecBlock s
  | .ofb, _ => ofbBlock s
  | .ctr, _ => ctrBlock s

/-- MODE_BLOCK (R160). -/
def execModeBlock (s : State) : Host.Outcome State Fault Refusal :=
  command .modeBlock (modeBlockChecks s) modeBlockEffect s

end Sys2Proof.Machine
end

