-- ==== Sys2Proof/Machine/Dispatch.lean ====
section
/-! DEFINITION. One arm per command. -/

namespace Sys2Proof.Machine

def exec (i : Instr) (s : State) : Host.Outcome State Fault Refusal :=
  match i with
  | .subBytes => Sys2Proof.Machine.execSubBytes s
  | .invSubBytes => Sys2Proof.Machine.execInvSubBytes s
  | .shiftRows => Sys2Proof.Machine.execShiftRows s
  | .invShiftRows => Sys2Proof.Machine.execInvShiftRows s
  | .mixColumns => Sys2Proof.Machine.execMixColumns s
  | .invMixColumns => Sys2Proof.Machine.execInvMixColumns s
  | .addRoundKey rnd => Sys2Proof.Machine.execAddRoundKey rnd s
  | .encRound rnd => Sys2Proof.Machine.execEncRound rnd s
  | .decRound rnd => Sys2Proof.Machine.execDecRound rnd s
  | .encryptBlock => Sys2Proof.Machine.execEncryptBlock s
  | .decryptBlock => Sys2Proof.Machine.execDecryptBlock s
  | .gfMul a b => Sys2Proof.Machine.execGfMul a b s
  | .sboxRead a => Sys2Proof.Machine.execSboxRead a s
  | .invSboxRead a => Sys2Proof.Machine.execInvSboxRead a s
  | .keyExpand => Sys2Proof.Machine.execKeyExpand s
  | .modeInit mode dir op => Sys2Proof.Machine.execModeInit mode dir op s
  | .modeBlock => Sys2Proof.Machine.execModeBlock s
  | .softReset => Sys2Proof.Machine.execSoftReset s

end Sys2Proof.Machine
end

