-- ==== Sys2Proof/Machine/Bus.lean ====
section
/-! DEFINITION. The register window as the host sees it (20_memory.md): the map of R42, BusRead and
BusWrite (R53), the command write (60_exceptions.md R214), and the platform's reset (R240). -/

namespace Sys2Proof.Machine

/-- The register at an offset of the window, or none: a reserved or misaligned offset, or one past
the window (R42, R43). -/
def windowReg (off : Nat) : Option WindowReg :=
  if off % 4 ≠ 0 then none
  else if off = 0x000 then some .cmd
  else if off = 0x004 then some .status
  else if off = 0x008 then some .len
  else if off = 0x00C then some .ctrl
  else if off = 0x010 then some .rkcnt
  else if off = 0x014 then some .gfr
  else if off < 0x020 then none
  else if off < 0x030 then some (.data .state (Fin.ofNat 4 (off / 4)))
  else if off < 0x040 then some (.data .key (Fin.ofNat 4 (off / 4)))
  else if off < 0x050 then some (.data .din (Fin.ofNat 4 (off / 4)))
  else if off < 0x060 then some (.data .dout (Fin.ofNat 4 (off / 4)))
  else if off < 0x070 then some (.data .iv (Fin.ofNat 4 (off / 4)))
  else if off < 0x080 then some (.data .chain (Fin.ofNat 4 (off / 4)))
  else if off < 0x090 then some (.blkIdx (Fin.ofNat 4 (off / 4)))
  else if off < 0x100 then none
  else if off < 0x1B0 then some (.roundWord (Fin.ofNat 44 ((off - 0x100) / 4)))
  else none

/-- The offset of a register of the window (R42). -/
def windowOffset : WindowReg → Nat
  | .cmd => 0x000
  | .status => 0x004
  | .len => 0x008
  | .ctrl => 0x00C
  | .rkcnt => 0x010
  | .gfr => 0x014
  | .data r j => regOffset r + 4 * j.val
  | .blkIdx j => 0x080 + 4 * j.val
  | .roundWord i => 0x100 + 4 * i.val

/-- What a host read of a register returns (R42; CMD reads 0; an absent byte is a free value, R27). -/
def readReg (s : State) : WindowReg → Word
  | .cmd => 0
  | .status => statusWord s
  | .len => lenWord s
  | .ctrl => ctrlWord s
  | .rkcnt => rkcntWord s
  | .gfr => gfrWord s
  | .data r j => packWord (s.dataWord r j)
  | .blkIdx j => quadGet (unpackQuad s.blkIdx) j
  | .roundWord i => packWord (s.roundWord i)

/-- A write of a command word to CMD (R214): the command it decodes to, or ILLEGAL. Each command, and
ILLEGAL, is dropped while an error is pending, but for SOFT_RESET. -/
def runCommand (cmd : Word) (s : State) : Host.Outcome State Fault Refusal :=
  match decode cmd with
  | .command i => exec i s
  | .illegal k => illegalCommand (fieldOpc cmd) k s

/-- A host write of STATUS: bit 31 clears the error record, nothing else is writable (R23, R182). -/
def writeStatus (v : Word) (s : State) : State :=
  if v.getLsbD 31 then s.clearError else s

/-- A host write of LEN: DOUT_LEN is read-only (R24). -/
def writeLen (v : Word) (s : State) : State :=
  { s with dinLen := v.extractLsb' 0 8, keyLen := v.extractLsb' 8 8, ivLen := v.extractLsb' 16 8 }

/-- A host write of RKCNT (R18). -/
def writeRkcnt (v : Word) (s : State) : State :=
  { s with rkCount := v.extractLsb' 0 4 }

/-- A host write of a word of BLKIDX (R21). -/
def writeBlkIdx (j : Fin 4) (v : Word) (s : State) : State :=
  { s with blkIdx := packQuad (quadSet (unpackQuad s.blkIdx) j v) }

/-- A host write of a word of a data register: DOUT is read-only (R16, R42). -/
def writeData (r : DataReg) (j : Fin 4) (v : Word) (s : State) : State :=
  match r with
  | .dout => s
  | .state => s.putWord .state j v
  | .key => s.putWord .key j v
  | .din => s.putWord .din j v
  | .iv => s.putWord .iv j v
  | .chain => s.putWord .chain j v

/-- What a host write of a register does (R42): accepted whatever STATUS.ERR holds. -/
def writeReg (r : WindowReg) (v : Word) (s : State) : Host.Outcome State Fault Refusal :=
  match r with
  | .cmd => runCommand v s
  | .status => .next (writeStatus v s)
  | .len => .next (writeLen v s)
  | .ctrl => .next s
  | .rkcnt => .next (writeRkcnt v s)
  | .gfr => .next s
  | .data r j => .next (writeData r j v s)
  | .blkIdx j => .next (writeBlkIdx j v s)
  | .roundWord i => .next (s.putRoundWord i v)

/-- The count of host accesses advances, so that the next one draws afresh (R27; assumption 4). -/
def State.tick (s : State) : State :=
  { s with draws := s.draws + 1 }

/-- BusRead(off): the word at `off`, which the host receives; no register changes (R53, R46). -/
def busRead (off : Nat) (s : State) : Host.Outcome State Fault Refusal :=
  match windowReg off with
  | none => .fault .busError
  | some r => .next { s with observed := s.observed ++ [readReg s r] }

/-- BusWrite(off, v) (R53). -/
def busWrite (off : Nat) (v : Word) (s : State) : Host.Outcome State Fault Refusal :=
  match windowReg off with
  | none => .fault .busError
  | some r => writeReg r v s

/-- The platform's reset: every register at its reset value, the data registers unwritten again
(R240); the host's side of the bus is not the engine's (assumption 13). -/
def hardReset (s : State) : State :=
  { State.reset with pending := s.pending, observed := s.observed, draws := s.draws }

/-- One event from outside: a 32-bit access, an access of another width, which is a bus error (R43),
or the reset. -/
def hostEvent (e : HostEvent) (s : State) : Host.Outcome State Fault Refusal :=
  match e with
  | .read .bits32 off => andThen (busRead off s) fun t => .next t.tick
  | .read .bits8 _ => .fault .busError
  | .read .bits16 _ => .fault .busError
  | .write .bits32 off v => andThen (busWrite off v s) fun t => .next t.tick
  | .write .bits8 _ _ => .fault .busError
  | .write .bits16 _ _ => .fault .busError
  | .reset => .next (hardReset s).tick

/-- The engine takes the host's next access; with none waiting it takes no step (R10, R44, R47;
assumptions 5 and 7). -/
def nextAccess (s : State) : Host.Outcome State Fault Refusal :=
  match s.pending with
  | [] => .next s
  | e :: rest => hostEvent e { s with pending := rest }

/-- A host access to CMD that writes a command word. -/
def commandWrite (cmd : Word) : HostEvent :=
  .write .bits32 0x000 cmd

/-- The window offset of an address on the platform's bus, for an address inside the window (R40, R41;
assumption 8). -/
def offsetOf (addr : Nat) : Option Nat :=
  if Config.base ≤ addr ∧ addr < Config.base + Config.windowSize then some (addr - Config.base)
  else none

end Sys2Proof.Machine
end

