-- ==== Sys2Proof/Machine/Step.lean ====
section
/-! DEFINITION. One step of the machine (20_memory.md R44), and where it finds its next command. -/

namespace Sys2Proof.Machine

/-- One step: the host's next access, taken atomically (R10, R44). -/
def step (s : State) : Host.Outcome State Fault Refusal :=
  nextAccess s

/-- The state in which the very next access is the write of the command word `w` to CMD: the engine
fetches nothing, a command is the data of one host write (R11, R50; assumption 5). -/
def State.withFetchWord (s : State) (nbits w : Nat) : State :=
  { s with pending := commandWrite (BitVec.ofNat 32 (w % 2 ^ nbits)) :: s.pending }

end Sys2Proof.Machine
end

