-- ==== Sys2Proof/Machine/Assembler.lean ====
section
/-! DEFINITION. The assembler syntax of 30_encoding.md R70: a line of text is cut into its mnemonic and its
operands, each a number (decimal or hexadecimal) or a name, and assembles to one command. -/

namespace Sys2Proof.Machine

/-- An operand of a line (R70). -/
inductive AsmOperand where
  | num (n : Nat)
  | name (s : String)
  deriving DecidableEq, Repr

/-- The mode names of `mode_init` (R70). -/
def asmMode (s : String) : Option Mode :=
  if s = "ecb" then some .ecb
  else if s = "cbc" then some .cbc
  else if s = "ofb" then some .ofb
  else if s = "ctr" then some .ctr
  else none

/-- The direction names of `mode_init` (R70). -/
def asmDir (s : String) : Option Dir :=
  if s = "enc" then some .enc else if s = "dec" then some .dec else none

/-- The block function names of `mode_init` (R70). -/
def asmBlockOp (s : String) : Option BlockOp :=
  if s = "fwd" then some .fwd
  else if s = "inv" then some .inv
  else if s = "id" then some .ident
  else none

/-- Lines with no operand (R70). -/
def asmPlain (m : String) : Option Instr :=
  if m = "sub_bytes" then some .subBytes
  else if m = "inv_sub_bytes" then some .invSubBytes
  else if m = "shift_rows" then some .shiftRows
  else if m = "inv_shift_rows" then some .invShiftRows
  else if m = "mix_columns" then some .mixColumns
  else if m = "inv_mix_columns" then some .invMixColumns
  else if m = "encrypt_block" then some .encryptBlock
  else if m = "decrypt_block" then some .decryptBlock
  else if m = "key_expand" then some .keyExpand
  else if m = "mode_block" then some .modeBlock
  else if m = "soft_reset" then some .softReset
  else none

/-- Lines with one number: a round index 0..15, or a byte (R70). -/
def asmOne (m : String) (n : Nat) : Option Instr :=
  if m = "add_round_key" ∧ n < 16 then some (.addRoundKey (BitVec.ofNat 4 n))
  else if m = "enc_round" ∧ n < 16 then some (.encRound (BitVec.ofNat 4 n))
  else if m = "dec_round" ∧ n < 16 then some (.decRound (BitVec.ofNat 4 n))
  else if m = "sbox_read" ∧ n < 256 then some (.sboxRead (BitVec.ofNat 8 n))
  else if m = "inv_sbox_read" ∧ n < 256 then some (.invSboxRead (BitVec.ofNat 8 n))
  else none

/-- Lines with two bytes (R70). -/
def asmTwo (m : String) (a b : Nat) : Option Instr :=
  if m = "gf_mul" ∧ a < 256 ∧ b < 256 then some (.gfMul (BitVec.ofNat 8 a) (BitVec.ofNat 8 b))
  else none

/-- `mode_init <mode>, <dir>, <op>` (R70). -/
def asmModeInit (m mode dir op : String) : Option Instr :=
  if m = "mode_init" then
    match asmMode mode, asmDir dir, asmBlockOp op with
    | some x, some d, some f => some (.modeInit x d (blockOpBits f))
    | _, _, _ => none
  else none

/-- The command of a line (R70). -/
def assemble (m : String) (args : List AsmOperand) : Option Instr :=
  match args with
  | [] => asmPlain m
  | [.num n] => asmOne m n
  | [.num a, .num b] => asmTwo m a b
  | [.name x, .name d, .name f] => asmModeInit m x d f
  | _ => none

/-- The value of a digit, hexadecimal digits in either case (R70). -/
def digitValue (c : Char) : Option Nat :=
  if '0' ≤ c ∧ c ≤ '9' then some (c.toNat - 48)
  else if 'a' ≤ c ∧ c ≤ 'f' then some (c.toNat - 87)
  else if 'A' ≤ c ∧ c ≤ 'F' then some (c.toNat - 55)
  else none

/-- The value of a run of digits in a base, the digits before it making `acc`. -/
def digitsValue (base : Nat) : Nat → List Char → Option Nat
  | acc, [] => some acc
  | acc, c :: rest =>
    match digitValue c with
    | none => none
    | some d => if d < base then digitsValue base (base * acc + d) rest else none

/-- A number: decimal, or hexadecimal with a `0x` prefix (R70). -/
def asmNumber (cs : List Char) : Option Nat :=
  match cs with
  | [] => none
  | '0' :: 'x' :: d :: rest => digitsValue 16 0 (d :: rest)
  | c :: rest => digitsValue 10 0 (c :: rest)

/-- The pieces of a text between the occurrences of a separator. -/
def splitAtChar (sep : Char) : List Char → List (List Char)
  | [] => [[]]
  | c :: rest =>
    match splitAtChar sep rest with
    | [] => [[c]]
    | p :: ps => if c = sep then [] :: p :: ps else (c :: p) :: ps

/-- A text without the spaces at its ends. -/
def trimSpaces (cs : List Char) : List Char :=
  ((cs.dropWhile fun c => c == ' ').reverse.dropWhile fun c => c == ' ').reverse

/-- An operand: a number where it reads as one, else a name (R70). -/
def asmOperand (cs : List Char) : AsmOperand :=
  match asmNumber cs with
  | some n => .num n
  | none => .name (String.ofList cs)

/-- The command of a line of text: the mnemonic, a space, the operands separated by commas (R70). -/
def assembleLine (line : String) : Option Instr :=
  let cs := trimSpaces line.toList
  let m := cs.takeWhile fun c => c != ' '
  let rest := trimSpaces (cs.drop m.length)
  assemble (String.ofList m)
    (if rest = [] then [] else (splitAtChar ',' rest).map fun piece => asmOperand (trimSpaces piece))

/-- The word a line assembles to (R70: each line is one write of the command word to CMD). -/
def assembleWord (line : String) : Option Word :=
  (assembleLine line).map encode

end Sys2Proof.Machine
end

