-- ==== Sys2Proof/Machine/HostProcedures.lean ====
section
/-! DEFINITION. The host's pseudo-instructions (30_encoding.md R71) and its buffer procedures
(46_buffer_procedures.md): sequences of host accesses, performed on the machine one after the other.
They are the host's; the engine neither knows nor checks that a host follows them (assumption 18). -/

namespace Sys2Proof.Machine

/-- `wr REG, v` (R71). -/
def wr (r : WindowReg) (v : Word) : HostEvent :=
  .write .bits32 (windowOffset r) v

/-- `rd REG` (R71). -/
def rd (r : WindowReg) : HostEvent :=
  .read .bits32 (windowOffset r)

/-- `wr128 REG, <block>` for the register whose word `j` is `reg j` (R71). -/
def wr128 (reg : Fin 4 → WindowReg) (b : Block) : List HostEvent :=
  [wr (reg 0) (packWord b.a0), wr (reg 1) (packWord b.a1), wr (reg 2) (packWord b.a2),
   wr (reg 3) (packWord b.a3)]

/-- `rd128 REG` (R71). -/
def rd128 (reg : Fin 4 → WindowReg) : List HostEvent :=
  [rd (reg 0), rd (reg 1), rd (reg 2), rd (reg 3)]

/-- `setlen din=d, key=k, iv=i`: one write of LEN (R71). -/
def setlen (d k i : Byte) : HostEvent :=
  wr .len (0#8 ++ i ++ k ++ d)

/-- `clear_err` (R71, R182). -/
def clearErr : HostEvent :=
  wr .status 0x80000000#32

/-- A sequence of host events, each performed after the one before it (R47). -/
def perform : List HostEvent → State → Host.Outcome State Fault Refusal
  | [], s => .next s
  | e :: rest, s => andThen (hostEvent e s) (perform rest)

/-- The chunks of 16 bytes, the last one shorter where the length asks it; `fuel` bounds their number. -/
def chunksFrom : Nat → List Byte → List (List Byte)
  | 0, _ => []
  | fuel + 1, x => if x = [] then [] else x.take 16 :: chunksFrom fuel (x.drop 16)

/-- `blocks(X)` (R190). -/
def blocksOf (x : List Byte) : List (List Byte) :=
  chunksFrom x.length x

/-- `zero_pad(X)` (R191). -/
def zeroPad (x : List Byte) : List Byte :=
  x ++ List.replicate ((16 - x.length % 16) % 16) 0

/-- `strip_zeros(X)` (R192). -/
def stripZeros (x : List Byte) : List Byte :=
  (x.reverse.dropWhile fun v => v == 0).reverse

/-- How a buffer procedure ends: with its output; with the first error, STATUS as the host read it, and
no output (R195); or stopped by the machine. -/
inductive ProcResult where
  | done (out : List Byte) (s : State)
  | error (status : Word) (s : State)
  | faulted (r : Fault)
  | refused (r : Refusal)
  deriving DecidableEq, Repr

/-- The procedure goes on from the state its accesses leave. -/
def onward (o : Host.Outcome State Fault Refusal) (k : State → ProcResult) : ProcResult :=
  match o with
  | .next s => k s
  | .fault r => .faulted r
  | .refused r => .refused r

/-- The host reads registers in order, and goes on with the words its reads returned (R53). -/
def afterReads : List WindowReg → State → (List Word → State → ProcResult) → ProcResult
  | [], s, k => k [] s
  | r :: rest, s, k =>
    onward (hostEvent (rd r) s) fun t => afterReads rest t fun vs => k (readReg s r :: vs)

/-- `if STATUS.ERR != 0: return Error(STATUS)` (R193). -/
def checkError (s : State) (k : State → ProcResult) : ProcResult :=
  afterReads [.status] s fun vs t =>
    if (vs.getD 0 0).extractLsb' 0 4 ≠ 0 then .error (vs.getD 0 0) t else k t

/-- `DOUT[0 .. DOUT_LEN-1]` as the host reads it (R193). -/
def readOutput (s : State) (k : List Byte → State → ProcResult) : ProcResult :=
  afterReads [.len, .data .dout 0, .data .dout 1, .data .dout 2, .data .dout 3] s fun vs t =>
    k (((vs.drop 1).flatMap fun v => columnList (unpackWord v)).take
        ((vs.getD 0 0).extractLsb' 24 8).toNat) t

/-- `min(len(x), 255)` as a length field (R193). -/
def lengthField (x : List Byte) : Byte :=
  BitVec.ofNat 8 (min x.length 255)

/-- The loop of R193: one MODE_BLOCK for each chunk, stopping at the first error. -/
def runChunks (iv : List Byte) : List (List Byte) → List Byte → State → ProcResult
  | [], out, s => .done out s
  | b :: rest, out, s =>
    onward (perform (wr128 (.data .din) (blockOfList b)
        ++ [setlen (lengthField b) 16 (lengthField iv), commandWrite (encode .modeBlock)]) s) fun s₁ =>
    checkError s₁ fun s₂ =>
    readOutput s₂ fun bytes s₃ => runChunks iv rest (out ++ bytes) s₃

/-- What R193 and R194 share: start with no error pending, expand the key, create the mode context,
process the chunks of `x`. -/
def runMode (mode : Mode) (dir : Dir) (op : BlockOp) (key iv x : List Byte) (s : State) : ProcResult :=
  onward (perform ([clearErr] ++ wr128 (.data .key) (blockOfList (key.take 16))
      ++ [setlen 0 (lengthField key) (lengthField iv), commandWrite (encode .keyExpand)]) s) fun s₁ =>
  checkError s₁ fun s₂ =>
  onward (perform (wr128 (.data .iv) (blockOfList (iv.take 16))
      ++ [commandWrite (encode (.modeInit mode dir (blockOpBits op)))]) s₂) fun s₃ =>
  checkError s₃ fun s₄ => runChunks iv (blocksOf x) [] s₄

/-- The modes that pad and strip: ECB and CBC (44_modes.md R150). -/
def paddedMode (mode : Mode) : Bool :=
  match mode with
  | .ecb => true
  | .cbc => true
  | .ofb => false
  | .ctr => false

/-- The block function of each mode's decryption (R152, R194). -/
def decryptOp (mode : Mode) : BlockOp :=
  if paddedMode mode then .inv else .fwd

/-- `ModeEncrypt(mode, key, iv, P)` (R193). -/
def modeEncrypt (mode : Mode) (key iv p : List Byte) (s : State) : ProcResult :=
  runMode mode .enc .fwd key iv (if paddedMode mode then zeroPad p else p) s

/-- The decryption's output before stripping: the concatenated MODE_BLOCK outputs (R196, 90_conflicts.md C1). -/
def modeDecryptBlocks (mode : Mode) (key iv c : List Byte) (s : State) : ProcResult :=
  runMode mode .dec (decryptOp mode) key iv c s

/-- `ModeDecrypt(mode, key, iv, C)` (R194). -/
def modeDecrypt (mode : Mode) (key iv c : List Byte) (s : State) : ProcResult :=
  match modeDecryptBlocks mode key iv c s with
  | .done out t => .done (if paddedMode mode then stripZeros out else out) t
  | .error v t => .error v t
  | .faulted r => .faulted r
  | .refused r => .refused r

/-- The output of a procedure that ended with one. -/
def procOutput : ProcResult → Option (List Byte)
  | .done out _ => some out
  | .error _ _ => none
  | .faulted _ => none
  | .refused _ => none

/-- The STATUS word of a procedure that ended with an error. -/
def procError : ProcResult → Option Word
  | .done _ _ => none
  | .error v _ => some v
  | .faulted _ => none
  | .refused _ => none

end Sys2Proof.Machine
end

