-- ==== Sys2Proof/Safety.lean ====
section
/-! DEFINITION. What counts as a safe run, in the terms claims use: where the spec's `unwritten` outcome
stands (10_state.md R27, 60_exceptions.md R215, R219), and the invariant of the control registers. -/

namespace Sys2Proof.Machine

/-- The first `n` of four words. -/
def firstWords (q : Quad DataWord) (n : Nat) : List DataWord :=
  [q.a0, q.a1, q.a2, q.a3].take n

/-- The words that hold the first `n` bytes of a register. -/
def wordsOfBytes (q : Quad DataWord) (n : Nat) : List DataWord :=
  firstWords q ((n + 3) / 4)

/-- The words of round key `r` (R17). -/
def roundKeyWords (s : State) (r : Nat) : List DataWord :=
  (s.w.toList.drop (4 * r)).take 4

/-- The words MODE_INIT consumes: IV whole in CBC and OFB, its first IV_LEN bytes in CTR (44_modes.md R153). -/
def modeInitConsumes (mode : Mode) (s : State) : List DataWord :=
  match mode with
  | .ecb => []
  | .cbc => firstWords s.iv 4
  | .ofb => firstWords s.iv 4
  | .ctr => wordsOfBytes s.iv s.ivLen.toNat

/-- The words MODE_BLOCK consumes: `DIN[0..L-1]`, CHAIN but in ECB, W when OP is FWD or INV (R160). -/
def modeBlockConsumes (s : State) : List DataWord :=
  wordsOfBytes s.din s.dinLen.toNat
    ++ (if s.mode = .ecb then [] else firstWords s.chain 4)
    ++ (if s.op = .ident then [] else s.w.toList)

/-- The data words a command consumes when it passes every check (R27). -/
def consumes (i : Instr) (s : State) : List DataWord :=
  match i with
  | .subBytes => firstWords s.stateReg 4
  | .invSubBytes => firstWords s.stateReg 4
  | .shiftRows => firstWords s.stateReg 4
  | .invShiftRows => firstWords s.stateReg 4
  | .mixColumns => firstWords s.stateReg 4
  | .invMixColumns => firstWords s.stateReg 4
  | .addRoundKey rnd => firstWords s.stateReg 4 ++ roundKeyWords s rnd.toNat
  | .encRound rnd => firstWords s.stateReg 4 ++ roundKeyWords s rnd.toNat
  | .decRound rnd => firstWords s.stateReg 4 ++ roundKeyWords s rnd.toNat
  | .encryptBlock => firstWords s.din 4 ++ s.w.toList
  | .decryptBlock => firstWords s.din 4 ++ s.w.toList
  | .gfMul _ _ => []
  | .sboxRead _ => []
  | .invSboxRead _ => []
  | .keyExpand => firstWords s.keyReg 4
  | .modeInit mode _ _ => modeInitConsumes mode s
  | .modeBlock => modeBlockConsumes s
  | .softReset => []

/-- The command runs: it is neither dropped nor refused with an error (R213, R214). -/
def runs (i : Instr) (s : State) : Bool :=
  match exec i s with
  | .next t => !errorPending s && !errorPending t
  | .fault _ => false
  | .refused _ => false

/-- The spec's `unwritten` outcome (R215, R219): the command passes every check of its rule and would
consume a byte that has been absent since reset. The model goes on with free values there
(assumption 2); a claim about the chip's own values excludes it by this predicate. -/
def consumesUnwritten (i : Instr) (s : State) : Bool :=
  runs i s && (consumes i s).any fun d => !d.written

/-- The pairs (ERR, ERR_INFO) that are ever written: those R211 lists with a command that raises them,
and no error (U6). -/
def listedErrors : List (BitVec 4 × BitVec 3) :=
  [(0, 0), (1, 1), (1, 2), (1, 3), (2, 1), (2, 2), (2, 3), (2, 4), (2, 5), (3, 1), (4, 0)]

/-- STATUS holds a listed error, and an OPC only beside an error (R211, R23). -/
def statusListed (s : State) : Bool :=
  listedErrors.contains (s.err, s.errInfo) && (s.err != 0 || s.errOpc == 0)

/-- CTRL is 0 while no mode is active (R22, R180). -/
def contextCleared (s : State) : Bool :=
  s.active || (s.mode == .ecb && s.dir == .enc && s.op == .fwd)

/-- Byte `j` of DOUT is written and 0x00. -/
def doutZeroAt (s : State) (j : Nat) : Bool :=
  (quadGet s.dout (Fin.ofNat 4 (j / 4))).written && byteAt (s.block .dout) j == 0

/-- DOUT_LEN is at most 16; where it is not 0, DOUT is written whole and is 0x00 from byte DOUT_LEN
on (10_state.md R16, 44_modes.md R162). -/
def outputShaped (s : State) : Bool :=
  s.doutLen == 0 ||
    (decide (s.doutLen.toNat ≤ 16) && (firstWords s.dout 4).all (fun d => d.written)
      && (List.range 16).all fun j => decide (j < s.doutLen.toNat) || doutZeroAt s j)

/-- What every run keeps. -/
def State.Inv (s : State) : Prop :=
  statusListed s = true ∧ contextCleared s = true ∧ outputShaped s = true

end Sys2Proof.Machine
end

