-- ==== Sys2Proof/Certificates/Slice0/Obligations.lean ====
section
/-! DEFINITION. The statements for the provers. First the words they are written in, then one
`def Obligations.<Name> : Prop` each, in the order of spec/. -/

namespace Sys2Proof.Statement

open Sys2Proof Sys2Proof.Machine

/-- The storage behind a register of the window is the same in two states, presence of bytes included. -/
def sameReg (s t : State) : WindowReg → Prop
  | .cmd => True
  | .status => t.err = s.err ∧ t.errOpc = s.errOpc ∧ t.errInfo = s.errInfo
  | .len => t.dinLen = s.dinLen ∧ t.keyLen = s.keyLen ∧ t.ivLen = s.ivLen ∧ t.doutLen = s.doutLen
  | .ctrl => t.mode = s.mode ∧ t.dir = s.dir ∧ t.op = s.op ∧ t.active = s.active
  | .rkcnt => t.rkCount = s.rkCount
  | .gfr => t.gfr = s.gfr
  | .data r j => quadGet (t.reg r) j = quadGet (s.reg r) j
  | .blkIdx j => quadGet (unpackQuad t.blkIdx) j = quadGet (unpackQuad s.blkIdx) j
  | .roundWord i => t.w[i] = s.w[i]

/-- The host's side of the bus is the same in two states. -/
def sameHost (s t : State) : Prop :=
  t.pending = s.pending ∧ t.observed = s.observed ∧ t.draws = s.draws

/-- Frame: only the registers `written` names may differ, and every other one reads as before. -/
def keeps (s t : State) (written : WindowReg → Bool) : Prop :=
  sameHost s t ∧ ∀ r, written r = false → sameReg s t r ∧ readReg t r = readReg s r

/-- The words of a 128-bit data register. -/
def inReg (d : DataReg) : WindowReg → Bool
  | .data r _ => r == d
  | _ => false

/-- The words of BLKIDX. -/
def inBlkIdx : WindowReg → Bool
  | .blkIdx _ => true
  | _ => false

/-- The round-key file. -/
def inRoundKeys : WindowReg → Bool
  | .roundWord _ => true
  | _ => false

/-- The three LEN fields that no command but SOFT_RESET writes (10_state.md R24, R30). -/
def keepsLengths (s t : State) : Prop :=
  t.dinLen = s.dinLen ∧ t.keyLen = s.keyLen ∧ t.ivLen = s.ivLen

/-- Every word of a 128-bit data register is written, and its bytes are those of a block. -/
def holds (t : State) (r : DataReg) (b : Block) : Prop :=
  (∀ j, (quadGet (t.reg r) j).written = true) ∧ t.block r = b

/-- STATUS as 60_exceptions.md R212 spells it: `(info << 16) | (opc << 8) | code`. -/
def statusValue (opc : BitVec 6) (code : Nat) (info : Nat) : Word :=
  BitVec.ofNat 32 (info * 65536 + opc.toNat * 256 + code)

/-- The command runs into an error: it records it in STATUS and changes nothing else (R212). -/
def failsWith (i : Instr) (s : State) (code info : Nat) : Prop :=
  ∃ t, exec i s = .next t ∧ statusWord t = statusValue (opcOf i) code info
    ∧ keeps s t (fun r => r == .status)

/-- A sequence of commands, each executed on the state the one before leaves. -/
def execAll : List Instr → State → Host.Outcome State Fault Refusal
  | [], s => .next s
  | i :: rest, s => andThen (exec i s) (execAll rest)

/-- The OPC values 30_encoding.md R68 lists as unassigned. -/
def unassigned (opc : Nat) : Prop :=
  opc = 0x00 ∨ (0x0C ≤ opc ∧ opc ≤ 0x0F) ∨ (0x13 ≤ opc ∧ opc ≤ 0x17) ∨ (0x19 ≤ opc ∧ opc ≤ 0x1F)
    ∨ (0x22 ≤ opc ∧ opc ≤ 0x3E)

/-- The bits above OPC that the formats of R61 to R64 mark 0, by the OPC that uses the format. -/
def zeroBits (opc : Nat) : Word :=
  if opc = 0x07 ∨ opc = 0x08 ∨ opc = 0x09 then 0xFFFFF0C0#32
  else if opc = 0x10 then 0x0000FFC0#32
  else if opc = 0x11 ∨ opc = 0x12 then 0xFF00FFC0#32
  else if opc = 0x20 then 0xFFE0FFC0#32
  else 0xFFFFFFC0#32

/-- The registers each command writes when it runs: the table of 10_state.md R30. CHAIN is written by
MODE_INIT in CBC, OFB and CTR, by MODE_BLOCK in CBC and OFB. -/
def writesByR30 (i : Instr) (s : State) (r : WindowReg) : Bool :=
  match i with
  | .subBytes => inReg .state r
  | .invSubBytes => inReg .state r
  | .shiftRows => inReg .state r
  | .invShiftRows => inReg .state r
  | .mixColumns => inReg .state r
  | .invMixColumns => inReg .state r
  | .addRoundKey _ => inReg .state r
  | .encRound _ => inReg .state r
  | .decRound _ => inReg .state r
  | .encryptBlock => inReg .state r || inReg .dout r || r == .len
  | .decryptBlock => inReg .state r || inReg .dout r || r == .len
  | .gfMul _ _ => r == .gfr
  | .sboxRead _ => r == .gfr
  | .invSboxRead _ => r == .gfr
  | .keyExpand => inRoundKeys r || r == .rkcnt
  | .modeInit m _ _ => r == .ctrl || inBlkIdx r || (m != .ecb && inReg .chain r)
  | .modeBlock => inReg .state r || inReg .dout r || r == .len || inBlkIdx r
      || ((s.mode == .cbc || s.mode == .ofb) && inReg .chain r)
  | .softReset => r == .status || r == .len || r == .ctrl || r == .rkcnt || r == .gfr || inBlkIdx r

/-- What MODE_BLOCK leaves in every mode (44_modes.md R160): STATE = `y`, DOUT = `out`, DOUT_LEN =
DIN_LEN, BLKIDX one more modulo 2^128, the registers beside those and (where `chained`) CHAIN kept. -/
def modeBlockLeaves (s t : State) (y out : Block) (chained : Bool) : Prop :=
  holds t .state y ∧ holds t .dout out ∧ t.doutLen = s.dinLen
    ∧ t.blkIdx.toNat = (s.blkIdx.toNat + 1) % 2 ^ 128 ∧ keepsLengths s t
    ∧ keeps s t (fun r => inReg .state r || inReg .dout r || r == .len || inBlkIdx r
        || (chained && inReg .chain r))

/-- MODE_BLOCK passes its checks in a block mode (R160, R161). -/
def readyBlock (s : State) : Prop :=
  s.err = 0 ∧ s.active = true ∧ s.dinLen = 16 ∧ (s.op = .ident ∨ s.rkCount = 11)

/-- MODE_BLOCK passes its checks in a stream mode (R160, R161). -/
def readyStream (s : State) : Prop :=
  s.err = 0 ∧ s.active = true ∧ 1 ≤ s.dinLen.toNat ∧ s.dinLen.toNat ≤ 16
    ∧ (s.op = .ident ∨ s.rkCount = 11)

/-- `out` is the first `len` bytes of `d` XOR `k`, 0x00 after them (R162). -/
def isPrefixXor (out d k : Block) (len : Nat) : Prop :=
  ∀ j, j < 16 → byteAt out j = if j < len then byteAt d j ^^^ byteAt k j else 0

/-- `OPERATE(x)` of 44_modes.md R151 with the round keys of a state. -/
def operateIn (s : State) (x : Block) : Block :=
  match s.op with
  | .fwd => cipher s.roundKey x
  | .inv => invCipher s.roundKey x
  | .ident => x

/-- The host accesses R43 answers with a bus error. -/
def badAccess (width : AccessWidth) (off : Nat) : Prop :=
  width ≠ .bits32 ∨ off % 4 ≠ 0 ∨ (0x018 ≤ off ∧ off < 0x020) ∨ (0x090 ≤ off ∧ off < 0x100)
    ∨ 0x1B0 ≤ off

/-- A register the host can write and read back whole (20_memory.md R42). -/
def storesWord : WindowReg → Bool
  | .data r _ => r != .dout
  | .blkIdx _ => true
  | .roundWord _ => true
  | _ => false

/-- The word-by-word recurrence of 42_key_schedule.md R122 on the words of a round-key file. -/
def followsSchedule (key : Block) (w : Nat → Column) : Prop :=
  (w 0 = key.a0 ∧ w 1 = key.a1 ∧ w 2 = key.a2 ∧ w 3 = key.a3) ∧
  ∀ i, 4 ≤ i → i < 44 →
    (i % 4 ≠ 0 → w i = xorColumn (w (i - 4)) (w (i - 1))) ∧
    (i % 4 = 0 → w i = xorColumn (w (i - 4))
      ⟨sbox (w (i - 1)).a1 ^^^ rcon (i / 4), sbox (w (i - 1)).a2, sbox (w (i - 1)).a3,
       sbox (w (i - 1)).a0⟩)

/-- How R70 writes a number: decimal, or hexadecimal with a `0x` prefix. -/
def numberText (n : Nat) (x : String) : Prop :=
  x = String.ofList (Nat.toDigits 10 n) ∨ x = "0x" ++ String.ofList (Nat.toDigits 16 n)

/-- The name of a mode in an assembler line (R70). -/
def modeText : Mode → String
  | .ecb => "ecb"
  | .cbc => "cbc"
  | .ofb => "ofb"
  | .ctr => "ctr"

/-- The name of a direction in an assembler line (R70). -/
def dirText : Dir → String
  | .enc => "enc"
  | .dec => "dec"

/-- The name of a block function in an assembler line (R70). -/
def opText : BlockOp → String
  | .fwd => "fwd"
  | .inv => "inv"
  | .ident => "id"

end Sys2Proof.Statement

open Sys2Proof Sys2Proof.Machine Sys2Proof.Statement

/-! ## Encoding (30_encoding.md) -/

/-- The words 40_gf_and_tables.md to 45_control.md and 95_test_vectors.md give for commands decode to
those commands (R66, R70). -/
def Obligations.SpecWordsDecode : Prop :=
  decode 0x00000001#32 = .command .subBytes ∧ decode 0x00000002#32 = .command .invSubBytes ∧
  decode 0x00000003#32 = .command .shiftRows ∧ decode 0x00000004#32 = .command .invShiftRows ∧
  decode 0x00000005#32 = .command .mixColumns ∧ decode 0x00000006#32 = .command .invMixColumns ∧
  decode 0x00000C07#32 = .command (.addRoundKey 12) ∧ decode 0x00000108#32 = .command (.encRound 1) ∧
  decode 0x00000A09#32 = .command (.decRound 10) ∧ decode 0x0000000A#32 = .command .encryptBlock ∧
  decode 0x0000000B#32 = .command .decryptBlock ∧
  decode 0x83570010#32 = .command (.gfMul 0x57 0x83) ∧
  decode 0x00530011#32 = .command (.sboxRead 0x53) ∧
  decode 0x00ED0012#32 = .command (.invSboxRead 0xED) ∧ decode 0x00000018#32 = .command .keyExpand ∧
  decode 0x000D0020#32 = .command (.modeInit .cbc .dec 1) ∧
  decode 0x00000021#32 = .command .modeBlock ∧ decode 0x0000003F#32 = .command .softReset

/-- For every command: decoding its word gives it back, with every operand at every value (R61 to R67). -/
def Obligations.DecodeOfEncodeIsTheCommand : Prop :=
  ∀ i : Instr, i.wellFormed = true → decode (encode i) = .command i

/-- Every word that decodes to a command is that command's word, so no two words decode to one
command and no operand bit is dropped (R65, R67). -/
def Obligations.EncodeOfDecodeIsTheWord : Prop :=
  ∀ (cmd : Word) (i : Instr), decode cmd = .command i → i.wellFormed = true ∧ encode i = cmd

/-- R68: which words are illegal, with which info, and that an illegal word raises `Error(ILLEGAL, info)`
without any other effect. -/
def Obligations.IllegalWordsRaiseIllegal : Prop :=
  ∀ cmd : Word,
    (decode cmd = .illegal .unassignedOpc ↔ unassigned (fieldOpc cmd).toNat) ∧
    (decode cmd = .illegal .reservedBit ↔
      ¬ unassigned (fieldOpc cmd).toNat ∧ cmd &&& zeroBits (fieldOpc cmd).toNat ≠ 0) ∧
    (decode cmd = .illegal .reservedOp ↔
      (fieldOpc cmd).toNat = 0x20 ∧ cmd &&& 0xFFE0FFC0#32 = 0 ∧ cmd &&& 0x00180000#32 = 0x00180000#32) ∧
    ∀ (k : IllegalKind) (s : State), decode cmd = .illegal k → s.err = 0 →
      ∃ t, busWrite 0x000 cmd s = .next t ∧ keeps s t (fun r => r == .status) ∧
        statusWord t = statusValue (fieldOpc cmd) 1
          (match k with | .unassignedOpc => 1 | .reservedBit => 2 | .reservedOp => 3)

/-- Every command assembles from the line of text R70 gives it: the mnemonic, then every value of its
operands, a number in decimal or in hexadecimal; and what a line assembles to is a well-formed
command, whose word the line gives. -/
def Obligations.EveryCommandHasItsAssemblerLine : Prop :=
  (assembleLine "sub_bytes" = some .subBytes ∧ assembleLine "inv_sub_bytes" = some .invSubBytes ∧
    assembleLine "shift_rows" = some .shiftRows ∧ assembleLine "inv_shift_rows" = some .invShiftRows ∧
    assembleLine "mix_columns" = some .mixColumns ∧
    assembleLine "inv_mix_columns" = some .invMixColumns ∧
    assembleLine "encrypt_block" = some .encryptBlock ∧
    assembleLine "decrypt_block" = some .decryptBlock ∧ assembleLine "key_expand" = some .keyExpand ∧
    assembleLine "mode_block" = some .modeBlock ∧ assembleLine "soft_reset" = some .softReset) ∧
  (∀ (rnd : BitVec 4) (x : String), numberText rnd.toNat x →
    assembleLine ("add_round_key " ++ x) = some (.addRoundKey rnd) ∧
    assembleLine ("enc_round " ++ x) = some (.encRound rnd) ∧
    assembleLine ("dec_round " ++ x) = some (.decRound rnd)) ∧
  (∀ (a b : Byte) (x y : String), numberText a.toNat x → numberText b.toNat y →
    assembleLine ("gf_mul " ++ x ++ ", " ++ y) = some (.gfMul a b) ∧
    assembleLine ("sbox_read " ++ x) = some (.sboxRead a) ∧
    assembleLine ("inv_sbox_read " ++ x) = some (.invSboxRead a)) ∧
  (∀ (m : Mode) (d : Dir) (f : BlockOp),
    assembleLine ("mode_init " ++ modeText m ++ ", " ++ dirText d ++ ", " ++ opText f)
      = some (.modeInit m d (blockOpBits f))) ∧
  ∀ (line : String) (i : Instr), assembleLine line = some i →
    i.wellFormed = true ∧ assembleWord line = some (encode i)

/-! ## Steps, dispatch and errors (20_memory.md, 45_control.md, 60_exceptions.md) -/

/-- A step runs the decoded command (R44). What stands around the command is the model's own: the command
word leaves the pending list (assumption 5), the count of host accesses advances (assumption 4), and
with nothing pending the machine stays as it is (assumption 7). -/
def Obligations.StepRunsTheDecodedCommand : Prop :=
  (∀ (s : State) (cmd : Word) (rest : List HostEvent) (i : Instr),
    s.pending = commandWrite cmd :: rest → decode cmd = .command i →
      step s = andThen (exec i { s with pending := rest })
        (fun t => .next { t with draws := t.draws + 1 })) ∧
  ∀ s : State, s.pending = [] → step s = .next s

/-- R214: what a write of `cmd` to CMD does, as the rule's pseudocode says it. -/
def Obligations.CommandWriteFollowsDispatchRule : Prop :=
  ∀ (s : State) (cmd : Word),
    busWrite 0x000 cmd s =
      if s.err ≠ 0 then
        if cmd = 0x0000003F#32 then exec .softReset s else .next s
      else
        match decode cmd with
        | .illegal k => .next (s.raise (cmd.extractLsb' 0 6) (.illegal k))
        | .command i => exec i s

/-- R212: a command word that ends with an error pending where none was wrote STATUS and no other
register, with the OPC field as written, and STATUS reads `(info << 16) | (cmd[5:0] << 8) | code` for a
code and info that R211 lists. -/
def Obligations.ErrorsWriteOnlyStatus : Prop :=
  ∀ (s t : State) (cmd : Word), s.err = 0 → busWrite 0x000 cmd s = .next t → t.err ≠ 0 →
    t.errOpc = cmd.extractLsb' 0 6 ∧ (t.err, t.errInfo) ∈ listedErrors ∧
    statusWord t = statusValue (cmd.extractLsb' 0 6) t.err.toNat t.errInfo.toNat ∧
    keeps s t (fun r => r == .status)

/-- R218: while an error is pending every command but SOFT_RESET is dropped, so the record stays that of the
first failure; a host write of STATUS leaves the record or clears it; host writes of the other
registers are accepted, keep the record, and do what they do when no error is pending. -/
def Obligations.PendingErrorDropsCommandsNotWrites : Prop :=
  (∀ (s : State) (cmd : Word), s.err ≠ 0 → cmd ≠ 0x0000003F#32 → busWrite 0x000 cmd s = .next s) ∧
  (∀ (s : State) (v : Word), ∃ t, writeReg .status v s = .next t ∧ (t = s ∨ t.err = 0)) ∧
  ∀ (s : State) (r : WindowReg) (v : Word), r ≠ .cmd → r ≠ .status →
    ∃ t, writeReg r v s = .next t ∧ sameReg s t .status ∧
      ∀ e o n, writeReg r v { s with err := e, errOpc := o, errInfo := n }
        = .next { t with err := e, errOpc := o, errInfo := n }

/-- R182: a STATUS write with bit 31 set clears the error record and changes nothing else, one with it
clear changes nothing; either is accepted whatever ERR holds; after a clear no error is pending. -/
def Obligations.StatusWriteClearsTheError : Prop :=
  ∀ (s : State) (v : Word),
    (v.getLsbD 31 = true →
      ∃ t, busWrite 0x004 v s = .next t ∧ errorPending t = false ∧ statusWord t = 0 ∧
        keeps s t (fun r => r == .status)) ∧
    (v.getLsbD 31 = false → busWrite 0x004 v s = .next s)

/-- Whole machine: no step is refused, and a step faults exactly where the host's next access is one that
R43 answers with a bus error (assumption 15). That no step faults elsewhere is the model's choice:
where R219 has a model fault with `unwritten`, this one goes on with a free value (assumption 2). -/
def Obligations.OnlyBadAccessesStopTheMachine : Prop :=
  ∀ s : State,
    (∀ r, step s ≠ .refused r) ∧
    (step s = .fault .busError ↔
      ∃ rest width off, badAccess width off ∧
        (s.pending = .read width off :: rest ∨ ∃ v, s.pending = .write width off v :: rest))

/-! ## The register window (10_state.md, 20_memory.md) -/

/-- R42: an offset is mapped exactly where the map has a row, and a register is found at its own offset
and nowhere else; the window stands at BASE, a multiple of 0x200 (R40, R41). -/
def Obligations.WindowMapIsExact : Prop :=
  (∀ (off : Nat) (r : WindowReg), windowReg off = some r ↔ windowOffset r = off) ∧
  (∀ off : Nat, windowReg off = none ↔ badAccess .bits32 off) ∧
  Config.base % 0x200 = 0 ∧
  ∀ addr off : Nat, offsetOf addr = some off ↔ addr = Config.base + off ∧ off < 0x200

/-- R43: accesses of another width, misaligned or at a reserved offset fault; reserved bits of a mapped
register read as 0, and writes to them are ignored. That every other access completes is no part of
R43: for a CMD write whose command consumes an unwritten byte it is the model's choice (assumption 2). -/
def Obligations.AccessRule : Prop :=
  (∀ (s : State) (width : AccessWidth) (off : Nat) (v : Word),
    (badAccess width off →
      hostEvent (.read width off) s = .fault .busError ∧
      hostEvent (.write width off v) s = .fault .busError) ∧
    (¬ badAccess width off →
      (∃ t, hostEvent (.read width off) s = .next t) ∧ ∃ t, hostEvent (.write width off v) s = .next t)) ∧
  (∀ s : State,
    readReg s .status &&& 0xFFF8C0F0#32 = 0 ∧ readReg s .ctrl &&& 0xFFFFFF60#32 = 0 ∧
    readReg s .rkcnt &&& 0xFFFFFFF0#32 = 0 ∧ readReg s .gfr &&& 0xFFFFFF00#32 = 0) ∧
  ∀ (s : State) (v : Word),
    writeReg .status v s = writeReg .status (v &&& 0x80000000#32) s ∧
    writeReg .len v s = writeReg .len (v &&& 0x00FFFFFF#32) s ∧
    writeReg .rkcnt v s = writeReg .rkcnt (v &&& 0x0000000F#32) s ∧
    writeReg .ctrl v s = .next s ∧ writeReg .gfr v s = .next s

/-- A host read returns the register's word, CMD's being 0, and changes no register (R42, R46, R53). -/
def Obligations.HostReadChangesNoRegister : Prop :=
  ∀ (s : State) (r : WindowReg), ∃ t,
    hostEvent (.read .bits32 (windowOffset r)) s = .next t ∧ t.observed = s.observed ++ [readReg s r] ∧
    t.pending = s.pending ∧ (∀ q, sameReg s t q) ∧ (r = .cmd → readReg s r = 0)

/-- A host write of a register it can read back stores the word and nothing else; writes of read-only
registers and fields are ignored (R42, R45, R46, R47). -/
def Obligations.HostWriteThenRead : Prop :=
  (∀ (s : State) (r : WindowReg) (v : Word), storesWord r = true →
    ∃ t, busWrite (windowOffset r) v s = .next t ∧ readReg t r = v ∧
      keeps s t (fun q => q == r)) ∧
  (∀ (s : State) (j : Fin 4) (v : Word), writeReg (.data .dout j) v s = .next s) ∧
  (∀ (s : State) (v : Word), ∃ t, writeReg .len v s = .next t ∧ t.doutLen = s.doutLen ∧
    lenWord t &&& 0x00FFFFFF#32 = v &&& 0x00FFFFFF#32 ∧ keeps s t (fun q => q == .len)) ∧
  ∀ (s : State) (v : Word), ∃ t, writeReg .rkcnt v s = .next t ∧
    rkcntWord t = v &&& 0x0000000F#32 ∧ keeps s t (fun q => q == .rkcnt)

/-- R45: a block written word by word reads back byte by byte in order, byte `X[4j]` in bits [31:24]; and a
key-schedule word is packed the same way, byte `a0` of `W[i]` in bits [31:24], written and read. -/
def Obligations.WordsArePackedBigEndian : Prop :=
  (∀ (s : State) (r : DataReg) (b : Block) (i : Nat), i < 16 →
    ∃ t, perform (wr128 (.data r) b) s = .next t ∧
      (r ≠ .dout → byteAt (t.block r) i = byteAt b i) ∧
      (readReg t (.data r (Fin.ofNat 4 (i / 4)))).extractLsb' (24 - 8 * (i % 4)) 8
        = byteAt (t.block r) i) ∧
  ∀ (s : State) (i : Fin 44) (v : Word) (k : Fin 4),
    (∃ t, hostEvent (wr (.roundWord i) v) s = .next t ∧ readReg t (.roundWord i) = v ∧
      quadGet (t.roundWord i) k = v.extractLsb' (24 - 8 * k.val) 8) ∧
    (readReg s (.roundWord i)).extractLsb' (24 - 8 * k.val) 8 = quadGet (s.roundWord i) k

/-! ## GF(2^8) and the tables (40_gf_and_tables.md) -/

/-- R81: the laws of `gmul`. -/
def Obligations.GfMultiplicationLaws : Prop :=
  (∀ a b : Byte, gmul a b = gmul b a) ∧
  (∀ a b c : Byte, gmul a (b ^^^ c) = gmul a b ^^^ gmul a c) ∧
  (∀ a : Byte, gmul a 1 = a) ∧ (∀ a : Byte, gmul a 0 = 0) ∧
  ∀ a : Byte, gmul a 2 = if a.getLsbD 7 then (a <<< 1) ^^^ 0x1B#8 else a <<< 1

/-- GF_MUL, SBOX_READ and INV_SBOX_READ leave their byte, zero-extended, in GFR and change nothing else
(R90 to R92). -/
def Obligations.GfUnitCommandsWriteGfr : Prop :=
  ∀ (s : State) (a b : Byte), s.err = 0 →
    (∃ t, exec (.gfMul a b) s = .next t ∧ gfrWord t = (gmul a b).setWidth 32 ∧
      keeps s t (fun r => r == .gfr)) ∧
    (∃ t, exec (.sboxRead a) s = .next t ∧ gfrWord t = (sbox a).setWidth 32 ∧
      keeps s t (fun r => r == .gfr)) ∧
    ∃ t, exec (.invSboxRead a) s = .next t ∧ gfrWord t = (invSbox a).setWidth 32 ∧
      keeps s t (fun r => r == .gfr)

/-- R84: reading the S-box and then the inverse S-box at the result gives the first operand back, and the
other way round, so each table is a permutation. -/
def Obligations.SboxReadsInvertEachOther : Prop :=
  ∀ (s t u : State) (a : Byte), s.err = 0 →
    (exec (.sboxRead a) s = .next t → exec (.invSboxRead t.gfr) t = .next u → u.gfr = a) ∧
    (exec (.invSboxRead a) s = .next t → exec (.sboxRead t.gfr) t = .next u → u.gfr = a)

/-! ## State transforms (41_state_transforms.md) -/

/-- SUB_BYTES and INV_SUB_BYTES substitute every byte of STATE and write nothing else (R100 to R103). -/
def Obligations.SubstitutionCommands : Prop :=
  ∀ s : State, s.err = 0 →
    (∃ t b, exec .subBytes s = .next t ∧ holds t .state b ∧
      (∀ i, i < 16 → byteAt b i = sbox (byteAt (s.block .state) i)) ∧ keeps s t (inReg .state)) ∧
    ∃ t b, exec .invSubBytes s = .next t ∧ holds t .state b ∧
      (∀ i, i < 16 → byteAt b i = invSbox (byteAt (s.block .state) i)) ∧ keeps s t (inReg .state)

/-- SHIFT_ROWS and INV_SHIFT_ROWS move the bytes of STATE from the pre-step block and write nothing else
(R104 to R107). -/
def Obligations.RowShiftCommands : Prop :=
  ∀ s : State, s.err = 0 →
    (∃ t b, exec .shiftRows s = .next t ∧ holds t .state b ∧
      (∀ r c, r < 4 → c < 4 →
        byteAt b (4 * c + r) = byteAt (s.block .state) (4 * ((c + r) % 4) + r)) ∧
      keeps s t (inReg .state)) ∧
    ∃ t b, exec .invShiftRows s = .next t ∧ holds t .state b ∧
      (∀ r c, r < 4 → c < 4 →
        byteAt b (4 * ((c + r) % 4) + r) = byteAt (s.block .state) (4 * c + r)) ∧
      keeps s t (inReg .state)

/-- MIX_COLUMNS and INV_MIX_COLUMNS multiply every column of STATE by the matrix and its inverse and
write nothing else (R108 to R111). -/
def Obligations.ColumnMixCommands : Prop :=
  ∀ s : State, s.err = 0 →
    (∃ t b, exec .mixColumns s = .next t ∧ holds t .state b ∧
      (∀ r c, r < 4 → c < 4 →
        cell b r c = gmul 2 (cell (s.block .state) r c) ^^^ gmul 3 (cell (s.block .state) (r + 1) c)
          ^^^ cell (s.block .state) (r + 2) c ^^^ cell (s.block .state) (r + 3) c) ∧
      keeps s t (inReg .state)) ∧
    ∃ t b, exec .invMixColumns s = .next t ∧ holds t .state b ∧
      (∀ r c, r < 4 → c < 4 →
        cell b r c = gmul 0x0E (cell (s.block .state) r c)
          ^^^ gmul 0x0B (cell (s.block .state) (r + 1) c)
          ^^^ gmul 0x0D (cell (s.block .state) (r + 2) c)
          ^^^ gmul 0x09 (cell (s.block .state) (r + 3) c)) ∧
      keeps s t (inReg .state)

/-- ADD_ROUND_KEY with RND in 0..10 and the round keys loaded XORs every byte of STATE with its byte of
`RK[RND]`, which is byte `i mod 4` of `W[4 RND + i / 4]`, and writes nothing else (R112, R113, R17). -/
def Obligations.AddRoundKeyCommand : Prop :=
  ∀ (s : State) (rnd : BitVec 4), s.err = 0 → rnd.toNat ≤ 10 → s.rkCount = 11 →
    ∃ t b, exec (.addRoundKey rnd) s = .next t ∧ holds t .state b ∧
      (∀ i, i < 16 → byteAt b i = byteAt (s.block .state) i ^^^
        quadGet (s.roundWord (Fin.ofNat 44 (4 * rnd.toNat + i / 4))) (Fin.ofNat 4 (i % 4))) ∧
      keeps s t (inReg .state)

/-- Each transform and its inverse undo each other on every block, in both orders (R102, R106, R110), and
AddRoundKey with one key is its own inverse (R112). -/
def Obligations.TransformsInvertEachOther : Prop :=
  ∀ b k : Block,
    invSubBytes (subBytes b) = b ∧ subBytes (invSubBytes b) = b ∧
    invShiftRows (shiftRows b) = b ∧ shiftRows (invShiftRows b) = b ∧
    invMixColumns (mixColumns b) = b ∧ mixColumns (invMixColumns b) = b ∧
    addRoundKey (addRoundKey b k) k = b

/-- ADD_ROUND_KEY, ENC_ROUND and DEC_ROUND raise RANGE (info 1) for RND 11 to 15, and otherwise LENGTH
(info 3) unless 11 round keys are loaded, and then write only STATUS (R113, R135, R136, R215). -/
def Obligations.RoundCommandErrors : Prop :=
  ∀ (s : State) (rnd : BitVec 4) (i : Instr), s.err = 0 →
    (i = .addRoundKey rnd ∨ i = .encRound rnd ∨ i = .decRound rnd) →
    (10 < rnd.toNat → failsWith i s 3 1) ∧
    (rnd.toNat ≤ 10 → s.rkCount ≠ 11 → failsWith i s 2 3)

/-! ## Key schedule (42_key_schedule.md) -/

/-- KEY_EXPAND with KEY_LEN = 16 writes all 44 words, which follow the recurrence of R122 from KEY, sets
RK_COUNT to 11, and writes nothing else (R122, R124). -/
def Obligations.KeyExpandFollowsTheSchedule : Prop :=
  ∀ s : State, s.err = 0 → s.keyLen = 16 →
    ∃ t, exec .keyExpand s = .next t ∧ followsSchedule (s.block .key) (fun i => t.roundWord (Fin.ofNat 44 i)) ∧
      (∀ i : Fin 44, t.w[i].written = true) ∧ t.rkCount = 11 ∧
      keeps s t (fun r => inRoundKeys r || r == .rkcnt)

/-- R125, determinism: two KEY_EXPAND on the same 16 key bytes leave the same round-key file, whatever
else the two states hold. -/
def Obligations.KeyExpandDependsOnKeyAlone : Prop :=
  ∀ s s' t t' : State, s.err = 0 → s'.err = 0 → s.keyLen = 16 → s'.keyLen = 16 →
    s.block .key = s'.block .key → exec .keyExpand s = .next t → exec .keyExpand s' = .next t' →
      t.w = t'.w ∧ t.rkCount = t'.rkCount

/-- R125, whole machine: no command but KEY_EXPAND changes a key-schedule word, none but KEY_EXPAND and
SOFT_RESET changes RK_COUNT, and no command changes KEY, DIN or IV, in any state. -/
def Obligations.RoundKeysOutliveOtherCommands : Prop :=
  ∀ (i : Instr) (s t : State), exec i s = .next t →
    (i ≠ .keyExpand → t.w = s.w) ∧ (i ≠ .keyExpand → i ≠ .softReset → t.rkCount = s.rkCount) ∧
    t.keyReg = s.keyReg ∧ t.din = s.din ∧ t.iv = s.iv

/-! ## Block engine (43_block_engine.md) -/

/-- ENC_ROUND with RND in 0..10 and the round keys loaded puts round RND of the forward cipher into STATE
and writes nothing else (R130, R135). -/
def Obligations.EncRoundCommand : Prop :=
  ∀ (s : State) (rnd : BitVec 4), s.err = 0 → rnd.toNat ≤ 10 → s.rkCount = 11 →
    ∃ t b, exec (.encRound rnd) s = .next t ∧ holds t .state b ∧ keeps s t (inReg .state) ∧
      (rnd.toNat = 0 → b = addRoundKey (s.block .state) (s.roundKey 0)) ∧
      (1 ≤ rnd.toNat → rnd.toNat ≤ 9 →
        b = addRoundKey (mixColumns (shiftRows (subBytes (s.block .state)))) (s.roundKey rnd.toNat)) ∧
      (rnd.toNat = 10 → b = addRoundKey (shiftRows (subBytes (s.block .state))) (s.roundKey 10))

/-- DEC_ROUND with RND in 0..10 and the round keys loaded puts the step of the inverse cipher that uses
round key RND into STATE and writes nothing else (R131, R136). -/
def Obligations.DecRoundCommand : Prop :=
  ∀ (s : State) (rnd : BitVec 4), s.err = 0 → rnd.toNat ≤ 10 → s.rkCount = 11 →
    ∃ t b, exec (.decRound rnd) s = .next t ∧ holds t .state b ∧ keeps s t (inReg .state) ∧
      (rnd.toNat = 10 → b = addRoundKey (s.block .state) (s.roundKey 10)) ∧
      (1 ≤ rnd.toNat → rnd.toNat ≤ 9 → b = invMixColumns
        (addRoundKey (invSubBytes (invShiftRows (s.block .state))) (s.roundKey rnd.toNat))) ∧
      (rnd.toNat = 0 → b = addRoundKey (invSubBytes (invShiftRows (s.block .state))) (s.roundKey 0))

/-- R134: ENCRYPT_BLOCK leaves in STATE what `enc_round 0` to `enc_round 10` issued in order leave there
from STATE = DIN; it leaves the same block in DOUT, DOUT_LEN = 16, and nothing else changed (R137). -/
def Obligations.EncryptBlockIsElevenRounds : Prop :=
  ∀ s : State, s.err = 0 → s.dinLen = 16 → s.rkCount = 11 →
    ∃ t u b, exec .encryptBlock s = .next t ∧
      execAll ([0, 1, 2, 3, 4, 5, 6, 7, 8, 9, 10].map Instr.encRound) (s.putBlock .state (s.block .din))
        = .next u ∧
      holds u .state b ∧ holds t .state b ∧ holds t .dout b ∧ t.doutLen = 16 ∧ keepsLengths s t ∧
      keeps s t (fun r => inReg .state r || inReg .dout r || r == .len)

/-- R134: DECRYPT_BLOCK leaves in STATE what `dec_round 10` down to `dec_round 0` leave there from
STATE = DIN; it leaves the same block in DOUT, DOUT_LEN = 16, and nothing else changed (R138). -/
def Obligations.DecryptBlockIsElevenRounds : Prop :=
  ∀ s : State, s.err = 0 → s.dinLen = 16 → s.rkCount = 11 →
    ∃ t u b, exec .decryptBlock s = .next t ∧
      execAll ([10, 9, 8, 7, 6, 5, 4, 3, 2, 1, 0].map Instr.decRound) (s.putBlock .state (s.block .din))
        = .next u ∧
      holds u .state b ∧ holds t .state b ∧ holds t .dout b ∧ t.doutLen = 16 ∧ keepsLengths s t ∧
      keeps s t (fun r => inReg .state r || inReg .dout r || r == .len)

/-- KEY_EXPAND raises LENGTH (info 2) unless KEY_LEN = 16; ENCRYPT_BLOCK and DECRYPT_BLOCK raise LENGTH
(info 1) unless DIN_LEN = 16, then LENGTH (info 3) unless 11 round keys are loaded; each then writes
only STATUS (R124, R137, R138, R215). -/
def Obligations.KeyAndBlockLengthErrors : Prop :=
  ∀ s : State, s.err = 0 →
    (s.keyLen ≠ 16 → failsWith .keyExpand s 2 2) ∧
    ∀ i : Instr, (i = .encryptBlock ∨ i = .decryptBlock) →
      (s.dinLen ≠ 16 → failsWith i s 2 1) ∧
      (s.dinLen = 16 → s.rkCount ≠ 11 → failsWith i s 2 3)

/-- R139: the inverse cipher undoes the cipher and the cipher the inverse cipher, for every block and
every round-key file. -/
def Obligations.CiphersInvertEachOther : Prop :=
  ∀ (rk : Nat → Block) (b : Block), invCipher rk (cipher rk b) = b ∧ cipher rk (invCipher rk b) = b

/-- R139 on the machine: ENCRYPT_BLOCK, DOUT copied to DIN, DECRYPT_BLOCK gives the first DIN back in
DOUT, whatever the round-key file holds. -/
def Obligations.DecryptBlockUndoesEncryptBlock : Prop :=
  ∀ s : State, s.err = 0 → s.dinLen = 16 → s.rkCount = 11 →
    ∃ t u, exec .encryptBlock s = .next t ∧
      exec .decryptBlock (t.putBlock .din (t.block .dout)) = .next u ∧ holds u .dout (s.block .din)

/-! ## Modes (44_modes.md) -/

/-- MODE_INIT with an OP it accepts: ECB keeps CHAIN; CBC and OFB with IV_LEN = 16 put IV into CHAIN; CTR
with IV_LEN ≤ 16 puts the nonce there, zero bytes before it (CTR_NONCE_ORDER = big, assumption 9);
CTRL takes MODE, DIR, OP and ACTIVE = 1, BLKIDX is 0, nothing else changes (R153, R154, R22). -/
def Obligations.ModeInitCreatesTheContext : Prop :=
  ∀ (s : State) (m : Mode) (d : Dir) (f : BlockOp), s.err = 0 →
    ((m = .cbc ∨ m = .ofb) → s.ivLen = 16) → (m = .ctr → s.ivLen.toNat ≤ 16) →
    ∃ t, exec (.modeInit m d (blockOpBits f)) s = .next t ∧
      t.mode = m ∧ t.dir = d ∧ t.op = f ∧ t.active = true ∧ t.blkIdx = 0 ∧
      ctrlWord t = 0x80#32 ||| ((blockOpBits f).setWidth 32 <<< 3) ||| ((dirBit d).setWidth 32 <<< 2)
        ||| (modeBits m).setWidth 32 ∧
      ((m = .cbc ∨ m = .ofb) → holds t .chain (s.block .iv)) ∧
      (m = .ctr → ∃ b, holds t .chain b ∧ ∀ j, j < 16 → byteAt b j =
        if j < 16 - s.ivLen.toNat then 0 else byteAt (s.block .iv) (j - (16 - s.ivLen.toNat))) ∧
      keeps s t (fun r => r == .ctrl || inBlkIdx r || (m != .ecb && inReg .chain r))

/-- MODE_INIT raises LENGTH (info 4) in CBC and OFB unless IV_LEN = 16, LENGTH (info 5) in CTR when
IV_LEN > 16, and then writes only STATUS: an active context stays as it is (R153). The last clause is
the model's own: the ill-formed term with OP = 3, which no word decodes to, raises ILLEGAL (info 3),
as the word with those bits does (assumption 10). -/
def Obligations.ModeInitErrors : Prop :=
  ∀ (s : State) (m : Mode) (d : Dir) (f : BlockOp), s.err = 0 →
    ((m = .cbc ∨ m = .ofb) → s.ivLen ≠ 16 → failsWith (.modeInit m d (blockOpBits f)) s 2 4) ∧
    (m = .ctr → 16 < s.ivLen.toNat → failsWith (.modeInit m d (blockOpBits f)) s 2 5) ∧
    failsWith (.modeInit m d 3) s 1 3

/-- MODE_BLOCK's checks in order: NO_MODE while no mode is active; LENGTH (info 1) for a block length the
mode refuses; LENGTH (info 3) for OP FWD or INV without 11 round keys; each writes only STATUS
(R160, R161, R215). -/
def Obligations.ModeBlockErrors : Prop :=
  ∀ s : State, s.err = 0 →
    (s.active = false → failsWith .modeBlock s 4 0) ∧
    (s.active = true →
      ((s.mode = .ecb ∨ s.mode = .cbc) → s.dinLen ≠ 16 → failsWith .modeBlock s 2 1) ∧
      ((s.mode = .ofb ∨ s.mode = .ctr) → (s.dinLen.toNat = 0 ∨ 16 < s.dinLen.toNat) →
        failsWith .modeBlock s 2 1)) ∧
    ((((s.mode = .ecb ∨ s.mode = .cbc) ∧ s.dinLen = 16) ∨
      ((s.mode = .ofb ∨ s.mode = .ctr) ∧ 1 ≤ s.dinLen.toNat ∧ s.dinLen.toNat ≤ 16)) →
      s.active = true → s.op ≠ .ident → s.rkCount ≠ 11 → failsWith .modeBlock s 2 3)

/-- MODE_BLOCK in ECB: `DOUT = OPERATE(DIN)` in both directions; CHAIN is not written (R160, R163). -/
def Obligations.EcbBlock : Prop :=
  ∀ s : State, readyBlock s → s.mode = .ecb →
    ∃ t, exec .modeBlock s = .next t ∧
      modeBlockLeaves s t (operateIn s (s.block .din)) (operateIn s (s.block .din)) false

/-- MODE_BLOCK in CBC encryption: `c[i] = OPERATE(p[i] ^ c[i-1])` to DOUT and CHAIN; in CBC decryption:
`p[i] = OPERATE(c[i]) ^ c[i-1]` to DOUT, `c[i]` to CHAIN (R160, R164, R165). -/
def Obligations.CbcBlock : Prop :=
  ∀ s : State, readyBlock s → s.mode = .cbc →
    (s.dir = .enc → ∃ t y, exec .modeBlock s = .next t ∧
      y = operateIn s (blockOfBytes fun j => byteAt (s.block .din) j ^^^ byteAt (s.block .chain) j) ∧
      modeBlockLeaves s t y y true ∧ holds t .chain y) ∧
    (s.dir = .dec → ∃ t, exec .modeBlock s = .next t ∧
      modeBlockLeaves s t (operateIn s (s.block .din))
        (blockOfBytes fun j => byteAt (operateIn s (s.block .din)) j ^^^ byteAt (s.block .chain) j) true ∧
      holds t .chain (s.block .din))

/-- MODE_BLOCK in OFB: the keystream block `k[i] = OPERATE(k[i-1])` goes whole to STATE and CHAIN, and
its first DIN_LEN bytes XOR DIN to DOUT, 0x00 after them (R160, R162, R166). -/
def Obligations.OfbBlock : Prop :=
  ∀ s : State, readyStream s → s.mode = .ofb →
    ∃ t out, exec .modeBlock s = .next t ∧
      modeBlockLeaves s t (operateIn s (s.block .chain)) out true ∧
      holds t .chain (operateIn s (s.block .chain)) ∧
      isPrefixXor out (s.block .din) (operateIn s (s.block .chain)) s.dinLen.toNat

/-- MODE_BLOCK in CTR: the counter of block BLKIDX is `be16((be_int(CHAIN) + BLKIDX) mod 2^128)`; its
OPERATE goes to STATE, and its first DIN_LEN bytes XOR DIN to DOUT, 0x00 after them; CHAIN is not
written (R160, R162, R167; CTR_NONCE_ORDER = big, assumption 9). -/
def Obligations.CtrBlock : Prop :=
  ∀ s : State, readyStream s → s.mode = .ctr →
    ∃ t out ctr, exec .modeBlock s = .next t ∧
      (beInt ctr).toNat = ((beInt (s.block .chain)).toNat + s.blkIdx.toNat) % 2 ^ 128 ∧
      modeBlockLeaves s t (operateIn s ctr) out false ∧
      isPrefixXor out (s.block .din) (operateIn s ctr) s.dinLen.toNat

/-- R165: with one round-key file and one chaining value, CBC decryption with OP = INV gives back the
block CBC encryption with OP = FWD was given. -/
def Obligations.CbcDecryptionUndoesEncryption : Prop :=
  ∀ s s' t t' : State, readyBlock s → readyBlock s' →
    s.mode = .cbc → s.dir = .enc → s.op = .fwd → s'.mode = .cbc → s'.dir = .dec → s'.op = .inv →
    (∀ r, r < 11 → s'.roundKey r = s.roundKey r) → s'.block .chain = s.block .chain →
    exec .modeBlock s = .next t → s'.block .din = t.block .dout → exec .modeBlock s' = .next t' →
      t'.block .dout = s.block .din ∧ t'.block .chain = t.block .chain

/-- OFB and CTR: a second MODE_BLOCK in the same context, at the same chaining value and block index,
given the first one's output, returns the first DIN_LEN bytes of the first one's input (R150, R162,
R166, R167). -/
def Obligations.StreamBlockUndoesItself : Prop :=
  ∀ s t t' : State, readyStream s → (s.mode = .ofb ∨ s.mode = .ctr) →
    exec .modeBlock s = .next t →
    exec .modeBlock ((({ t with blkIdx := s.blkIdx }).putBlock .chain (s.block .chain)).putBlock .din
      (t.block .dout)) = .next t' →
      ∀ j, j < s.dinLen.toNat → byteAt (t'.block .dout) j = byteAt (s.block .din) j

/-- R168: the output of a CTR block depends only on W, CHAIN, BLKIDX, DIN, DIN_LEN and OP, that of an ECB
block only on W, DIN and OP. -/
def Obligations.IndependentBlocks : Prop :=
  ∀ s s' t t' : State, exec .modeBlock s = .next t → exec .modeBlock s' = .next t' →
    s'.mode = s.mode → s'.op = s.op → s'.block .din = s.block .din →
    (∀ r, r < 11 → s'.roundKey r = s.roundKey r) →
    (readyStream s → readyStream s' → s.mode = .ctr → s'.block .chain = s.block .chain →
      s'.blkIdx = s.blkIdx → s'.dinLen = s.dinLen →
        t'.block .dout = t.block .dout ∧ t'.doutLen = t.doutLen) ∧
    (readyBlock s → readyBlock s' → s.mode = .ecb → t'.block .dout = t.block .dout)

/-- R169: in CTR with the identity stand-in and a zero block the output is the counter itself, which wraps
modulo 2^128 over the whole block, and the next block's counter is one more. -/
def Obligations.CounterWrapsOverTheWholeBlock : Prop :=
  ∀ s : State, readyStream s → s.mode = .ctr → s.op = .ident → s.dinLen = 16 →
    s.block .din = blockOfList [] →
    ∃ t u, exec .modeBlock s = .next t ∧ exec .modeBlock t = .next u ∧
      (beInt (t.block .dout)).toNat = ((beInt (s.block .chain)).toNat + s.blkIdx.toNat) % 2 ^ 128 ∧
      (beInt (u.block .dout)).toNat = ((beInt (t.block .dout)).toNat + 1) % 2 ^ 128

/-- R170: in ECB, OFB and CTR the engine computes the same for DIR = 0 and DIR = 1. -/
def Obligations.DirectionMattersOnlyInCbc : Prop :=
  ∀ (s : State) (d : Dir), s.mode ≠ .cbc →
    exec .modeBlock { s with dir := d } = andThen (exec .modeBlock s) fun t => .next { t with dir := d }

/-! ## Control, reset and whole-machine rules (10_state.md, 45_control.md, 70_reset_and_hazards.md) -/

/-- R240: on reset STATUS, LEN, CTRL, RKCNT and GFR are 0, BLKIDX is 0, and no byte of a data register is
present; the reset input does the same from any state. -/
def Obligations.ResetValues : Prop :=
  ∀ t : State, (t = State.reset ∨ ∃ s, hostEvent .reset s = .next t) →
    statusWord t = 0 ∧ lenWord t = 0 ∧ ctrlWord t = 0 ∧ rkcntWord t = 0 ∧ gfrWord t = 0 ∧
    t.blkIdx = 0 ∧ (∀ r j, (quadGet (t.reg r) j).written = false) ∧
    ∀ i : Fin 44, t.w[i].written = false

/-- R242: SOFT_RESET, in any state, sets the control registers to their values at reset and leaves every
data register as it is. -/
def Obligations.SoftResetKeepsData : Prop :=
  ∀ s : State, ∃ t, exec .softReset s = .next t ∧
    (∀ r, r = .status ∨ r = .len ∨ r = .ctrl ∨ r = .rkcnt ∨ r = .gfr ∨ inBlkIdx r = true →
      sameReg State.reset t r) ∧
    keeps s t (fun r => r == .status || r == .len || r == .ctrl || r == .rkcnt || r == .gfr
      || inBlkIdx r)

/-- R241: right after reset KEY_EXPAND, the block commands, the round commands, MODE_INIT in CBC and OFB,
and MODE_BLOCK raise LENGTH or NO_MODE, and write only STATUS; a round command with RND over 10
raises RANGE first (R215, assumption 16). -/
def Obligations.FirstCommandsAfterResetAreRefused : Prop :=
  failsWith .keyExpand State.reset 2 2 ∧ failsWith .encryptBlock State.reset 2 1 ∧
  failsWith .decryptBlock State.reset 2 1 ∧ failsWith .modeBlock State.reset 4 0 ∧
  (∀ (d : Dir) (f : BlockOp),
    failsWith (.modeInit .cbc d (blockOpBits f)) State.reset 2 4 ∧
    failsWith (.modeInit .ofb d (blockOpBits f)) State.reset 2 4) ∧
  ∀ (rnd : BitVec 4) (i : Instr), (i = .addRoundKey rnd ∨ i = .encRound rnd ∨ i = .decRound rnd) →
    (rnd.toNat ≤ 10 → failsWith i State.reset 2 3) ∧ (10 < rnd.toNat → failsWith i State.reset 3 1)

/-- R30: a command that raises no error (it runs, and none is pending after it) writes only the registers of
its row, and of LEN, unless it is SOFT_RESET, DOUT_LEN alone; a failing command writes only STATUS; a
dropped command writes nothing. -/
def Obligations.CommandsWriteOnlyTheirRow : Prop :=
  ∀ (i : Instr) (s t : State), exec i s = .next t →
    ((s.err = 0 ∨ i = .softReset) → t.err = 0 →
      keeps s t (writesByR30 i s) ∧ (i ≠ .softReset → keepsLengths s t)) ∧
    (s.err = 0 → t.err ≠ 0 → keeps s t fun r => r == .status) ∧
    (s.err ≠ 0 → i ≠ .softReset → t = s)

/-- A command that ends with an error pending wrote only STATUS, and wrote nothing at all where one was
pending before it; the record it wrote names it and a listed cause (R211 to R214). -/
def Obligations.CommandsLeavingAnErrorWroteOnlyStatus : Prop :=
  ∀ (i : Instr) (s : State), ∃ t, exec i s = .next t ∧
    (t.err ≠ 0 → keeps s t (fun r => r == .status) ∧
      (s.err ≠ 0 → t = s) ∧ (s.err = 0 → t.errOpc = opcOf i ∧ (t.err, t.errInfo) ∈ listedErrors))

/-- The invariant holds at reset: STATUS holds a listed error or none, CTRL is 0 with no active mode,
DOUT past DOUT_LEN is 0x00. -/
def Obligations.InvariantHoldsAtReset : Prop :=
  State.reset.Inv

/-- Every step from a state with the invariant leads to one: ERR and ERR_INFO stay among the pairs R211
lists (U6), CTRL stays 0 while no mode is active (R22), and DOUT stays written and 0x00 past DOUT_LEN
wherever DOUT_LEN is not 0 (R16). -/
def Obligations.EveryStepKeepsTheInvariant : Prop :=
  ∀ s t : State, s.Inv → step s = .next t → t.Inv

/-- R27, R219: a command that consumes no unwritten byte answers the same whatever the unwritten bytes
hold: its outcome does not depend on the draw. The free values reach a result only where the spec's
`unwritten` outcome stands (assumption 2). -/
def Obligations.UnwrittenBytesDoNotLeak : Prop :=
  ∀ (i : Instr) (s : State) (d : Nat), consumesUnwritten i s = false →
    exec i { s with draws := d } = andThen (exec i s) fun t => .next { t with draws := d }

/-! ## Buffer procedures (46_buffer_procedures.md) -/

/-- R191, R192: zero padding reaches the next multiple of 16 and adds fewer than 16 bytes, all 0x00;
stripping removes exactly the 0x00 bytes at the end; and stripping after padding is stripping. -/
def Obligations.PaddingAndStripping : Prop :=
  ∀ x : List Byte,
    (zeroPad x).length % 16 = 0 ∧ (∃ n, n < 16 ∧ zeroPad x = x ++ List.replicate n 0) ∧
    (∃ n, x = stripZeros x ++ List.replicate n 0) ∧ (∀ v, (stripZeros x).getLast? = some v → v ≠ 0) ∧
    stripZeros (zeroPad x) = stripZeros x

/-- R190: the chunks of a buffer are its bytes in order, every chunk but the last has 16 bytes, and the last
has 1 to 16. -/
def Obligations.ChunksOfABuffer : Prop :=
  ∀ x : List Byte, (blocksOf x).flatten = x ∧ (blocksOf x).length = (x.length + 15) / 16 ∧
    (∀ c ∈ blocksOf x, 1 ≤ c.length ∧ c.length ≤ 16) ∧ ∀ c ∈ (blocksOf x).dropLast, c.length = 16

/-- R195, R198: the procedures stop at the first error, from any state and with no output. A key that is not
16 bytes ends either procedure with LENGTH (info 2) in any mode; then an IV that is not 16 bytes in
CBC or OFB with LENGTH (info 4), a nonce over 16 bytes in CTR with LENGTH (info 5); then, in ECB and
CBC decryption, a ciphertext that is no multiple of 16 bytes with LENGTH (info 1) at its last chunk,
whatever the chunks before it gave (R194). -/
def Obligations.ProceduresStopAtTheFirstError : Prop :=
  ∀ (m : Mode) (key iv x : List Byte) (s : State),
    (key.length ≠ 16 →
      procError (modeEncrypt m key iv x s) = some 0x00021802#32 ∧
      procError (modeDecrypt m key iv x s) = some 0x00021802#32) ∧
    (key.length = 16 → (m = .cbc ∨ m = .ofb) → iv.length ≠ 16 →
      procError (modeEncrypt m key iv x s) = some 0x00042002#32 ∧
      procError (modeDecrypt m key iv x s) = some 0x00042002#32) ∧
    (key.length = 16 → m = .ctr → 16 < iv.length →
      procError (modeEncrypt m key iv x s) = some 0x00052002#32 ∧
      procError (modeDecrypt m key iv x s) = some 0x00052002#32) ∧
    (key.length = 16 → (m = .ecb ∨ (m = .cbc ∧ iv.length = 16)) → x.length % 16 ≠ 0 →
      procError (modeDecrypt m key iv x s) = some 0x00012102#32 ∧
      procOutput (modeDecrypt m key iv x s) = none)

/-- R196, stream modes: decryption of the encryption of any buffer gives the buffer back, from any two
states, for every key of 16 bytes and every IV of 16 bytes (in CTR: every nonce of at most 16). -/
def Obligations.StreamModesRoundTrip : Prop :=
  ∀ (m : Mode) (key iv p : List Byte) (s s' : State), key.length = 16 →
    ((m = .ofb ∧ iv.length = 16) ∨ (m = .ctr ∧ iv.length ≤ 16)) →
    ∃ c, procOutput (modeEncrypt m key iv p s) = some c ∧ c.length = p.length ∧
      procOutput (modeDecrypt m key iv c s') = some p

/-- R196, block modes, at both levels: the concatenated block outputs of the decryption are `zero_pad(p)`,
and the procedure's result is `strip_zeros(p)`, from any two states. -/
def Obligations.PaddedModesRoundTrip : Prop :=
  ∀ (m : Mode) (key iv p : List Byte) (s s' : State), key.length = 16 →
    (m = .ecb ∨ (m = .cbc ∧ iv.length = 16)) →
    ∃ c, procOutput (modeEncrypt m key iv p s) = some c ∧ c.length = (zeroPad p).length ∧
      procOutput (modeDecryptBlocks m key iv c s') = some (zeroPad p) ∧
      procOutput (modeDecrypt m key iv c s') = some (stripZeros p)
end

