-- ==== Sys2Proof/Laws/Assembler.lean ====
section
/-! SUPPORT. What `assembleLine` makes of a line whose mnemonic and operands hold no space and no comma:
the pieces R70 writes are the pieces it cuts (Machine/Assembler.lean). -/

namespace Sys2Proof.Machine

/-- A piece of a line: not empty, no space, no comma. -/
def AsmPiece (cs : List Char) : Prop :=
  cs ≠ [] ∧ ∀ c ∈ cs, c ≠ ' ' ∧ c ≠ ','

theorem AsmPiece.head_ne {cs : List Char} (h : AsmPiece cs) : cs.head? ≠ some ' ' := fun e =>
  (h.2 ' ' (List.mem_of_head? e)).1 rfl

theorem AsmPiece.getLast_ne {cs : List Char} (h : AsmPiece cs) : cs.getLast? ≠ some ' ' := fun e =>
  (h.2 ' ' (List.mem_of_getLast? e)).1 rfl

theorem dropWhile_space {cs : List Char} (h : cs.head? ≠ some ' ') :
    cs.dropWhile (fun c => c == ' ') = cs := by
  cases cs with
  | nil => rfl
  | cons c rest =>
    have hc : c ≠ ' ' := fun e => h (by rw [e]; rfl)
    simp [hc]

/-- A text with no space at its ends is its own trim. -/
theorem trimSpaces_eq {cs : List Char} (h : cs.head? ≠ some ' ') (k : cs.getLast? ≠ some ' ') :
    trimSpaces cs = cs := by
  unfold trimSpaces
  rw [dropWhile_space h, dropWhile_space (by rwa [List.head?_reverse]), List.reverse_reverse]

/-- One space before a text is trimmed. -/
theorem trimSpaces_cons_space {cs : List Char} : trimSpaces (' ' :: cs) = trimSpaces cs := by
  simp [trimSpaces]

theorem AsmPiece.trim {cs : List Char} (h : AsmPiece cs) : trimSpaces cs = cs :=
  trimSpaces_eq h.head_ne h.getLast_ne

theorem AsmPiece.split {cs : List Char} (h : ∀ c ∈ cs, c ≠ ',') : splitAtChar ',' cs = [cs] := by
  induction cs with
  | nil => rfl
  | cons c rest ih =>
    have hc : c ≠ ',' := h c (by simp)
    rw [splitAtChar, ih fun d hd => h d (by simp [hd])]
    simp [hc]

/-- The text up to the first comma is the first piece. -/
theorem AsmPiece.split_append {cs : List Char} (h : ∀ c ∈ cs, c ≠ ',') (rest : List Char) :
    splitAtChar ',' (cs ++ ',' :: rest) = cs :: splitAtChar ',' rest := by
  induction cs with
  | nil =>
    rw [List.nil_append, splitAtChar]
    split
    · rename_i e
      cases rest with
      | nil => simp [splitAtChar] at e
      | cons d ds =>
        rw [splitAtChar] at e
        split at e
        · simp at e
        · split at e <;> simp at e
    · rename_i e
      simp [e]
  | cons c cs ih =>
    have hc : c ≠ ',' := h c (by simp)
    rw [List.cons_append, splitAtChar, ih fun d hd => h d (by simp [hd])]
    simp [hc]

/-- The operand texts of a line, and the operands. -/
def asmOperands (rest : List Char) : List AsmOperand :=
  if rest = [] then [] else (splitAtChar ',' rest).map fun piece => asmOperand (trimSpaces piece)

/-- A line is cut at its first space. -/
theorem assembleLine_eq {m rest : List Char} (hm : AsmPiece m) (hr : rest.head? ≠ some ' ')
    (hl : (m ++ ' ' :: rest).getLast? ≠ some ' ') (k : rest.getLast? ≠ some ' ') :
    assembleLine (String.ofList (m ++ ' ' :: rest)) = assemble (String.ofList m) (asmOperands rest) := by
  have hh : (m ++ ' ' :: rest).head? ≠ some ' ' := by
    cases m with
    | nil => exact absurd rfl hm.1
    | cons c cs => exact hm.head_ne
  have ht : (m ++ ' ' :: rest).takeWhile (fun c => c != ' ') = m := by
    rw [List.takeWhile_append_of_pos fun c hc => by simp [(hm.2 c hc).1]]
    simp
  simp only [assembleLine, asmOperands, String.toList_ofList, trimSpaces_eq hh hl, ht,
    List.drop_left, trimSpaces_cons_space, trimSpaces_eq hr k]

/-- A line with one operand. -/
theorem assembleLine_one {m x : List Char} (hm : AsmPiece m) (hx : AsmPiece x) :
    assembleLine (String.ofList (m ++ ' ' :: x)) = assemble (String.ofList m) [asmOperand x] := by
  rw [assembleLine_eq hm hx.head_ne (by
    rw [List.getLast?_append_of_ne_nil _ (by simp), List.getLast?_cons]
    cases h : x.getLast? with
    | none => exact absurd (List.getLast?_eq_none_iff.1 h) hx.1
    | some c => simpa using fun e : c = ' ' => hx.getLast_ne (e ▸ h)) hx.getLast_ne]
  rw [asmOperands, if_neg hx.1, AsmPiece.split fun c hc => (hx.2 c hc).2]
  simp [hx.trim]

/-- A line with two operands, a comma and a space between them. -/
theorem assembleLine_two {m x y : List Char} (hm : AsmPiece m) (hx : AsmPiece x) (hy : AsmPiece y) :
    assembleLine (String.ofList (m ++ ' ' :: (x ++ ',' :: ' ' :: y)))
      = assemble (String.ofList m) [asmOperand x, asmOperand y] := by
  have hlast : ∀ cs : List Char, (cs ++ y).getLast? ≠ some ' ' := fun cs => by
    rw [List.getLast?_append_of_ne_nil _ hy.1]
    exact hy.getLast_ne
  have hhead : (x ++ ',' :: ' ' :: y).head? ≠ some ' ' := by
    cases x with
    | nil => exact absurd rfl hx.1
    | cons c cs => exact hx.head_ne
  rw [assembleLine_eq hm hhead
    (by simpa [List.append_assoc] using hlast (m ++ ' ' :: (x ++ [',', ' '])))
    (by simpa [List.append_assoc] using hlast (x ++ [',', ' ']))]
  rw [asmOperands, if_neg (by simp), AsmPiece.split_append fun c hc => (hx.2 c hc).2,
    AsmPiece.split (cs := ' ' :: y) (by
      intro c hc
      rcases List.mem_cons.1 hc with rfl | hc
      · decide
      · exact (hy.2 c hc).2)]
  simp [hx.trim, trimSpaces_cons_space, hy.trim]

end Sys2Proof.Machine
end

