-- ==== Sys2Proof/Laws/Bytes.lean ====
section
/-! SUPPORT. The small lemmas of Machine/Bytes.lean: groups of four, the views of a block, packing. -/

namespace Sys2Proof.Machine

@[simp] theorem quadGet_zero {α : Type} (q : Quad α) : quadGet q 0 = q.a0 := rfl
@[simp] theorem quadGet_one {α : Type} (q : Quad α) : quadGet q 1 = q.a1 := rfl
@[simp] theorem quadGet_two {α : Type} (q : Quad α) : quadGet q 2 = q.a2 := rfl
@[simp] theorem quadGet_three {α : Type} (q : Quad α) : quadGet q 3 = q.a3 := rfl

/-- A four-way case split on an index. -/
theorem forall_fin_four {p : Fin 4 → Prop} (h0 : p 0) (h1 : p 1) (h2 : p 2) (h3 : p 3) :
    ∀ j, p j := by
  intro j
  match j with
  | 0 => exact h0
  | 1 => exact h1
  | 2 => exact h2
  | 3 => exact h3

@[simp] theorem quadGet_quadSet_self {α : Type} (q : Quad α) (i : Fin 4) (x : α) :
    quadGet (quadSet q i x) i = x := by
  revert i
  exact forall_fin_four rfl rfl rfl rfl

theorem quadGet_quadSet_ne {α : Type} (q : Quad α) (i j : Fin 4) (x : α) (h : j ≠ i) :
    quadGet (quadSet q i x) j = quadGet q j := by
  revert i j
  refine forall_fin_four ?_ ?_ ?_ ?_ <;> refine forall_fin_four ?_ ?_ ?_ ?_ <;> intro h <;>
    first | rfl | exact absurd rfl h

@[simp] theorem quadGet_quadMap {α β : Type} (f : α → β) (q : Quad α) (i : Fin 4) :
    quadGet (quadMap f q) i = f (quadGet q i) := by
  revert i
  exact forall_fin_four rfl rfl rfl rfl

@[simp] theorem quadGet_quadZip {α β γ : Type} (f : α → β → γ) (p : Quad α) (q : Quad β) (i : Fin 4) :
    quadGet (quadZip f p q) i = f (quadGet p i) (quadGet q i) := by
  revert i
  exact forall_fin_four rfl rfl rfl rfl

/-- Four equal entries make equal fours. -/
theorem quad_ext {α : Type} {p q : Quad α} (h : ∀ j, quadGet p j = quadGet q j) : p = q := by
  have h0 : p.a0 = q.a0 := h 0
  have h1 : p.a1 = q.a1 := h 1
  have h2 : p.a2 = q.a2 := h 2
  have h3 : p.a3 = q.a3 := h 3
  cases p
  cases q
  simp_all

/-- Two blocks with the same state view are equal. -/
theorem block_ext_cell {a b : Block} (h : ∀ r c, r < 4 → c < 4 → cell a r c = cell b r c) : a = b := by
  have at_ : ∀ (r c : Fin 4), quadGet (quadGet a c) r = quadGet (quadGet b c) r := by
    intro r c
    have := h r.val c.val r.isLt c.isLt
    simpa [cell] using this
  exact quad_ext fun c => quad_ext fun r => at_ r c

/-- Two blocks with the same 16 bytes are equal. -/
theorem block_ext_byteAt {a b : Block} (h : ∀ i, i < 16 → byteAt a i = byteAt b i) : a = b := by
  refine block_ext_cell fun r c hr hc => ?_
  have := h (4 * c + r) (by omega)
  have e1 : (4 * c + r) % 4 = r := by omega
  have e2 : (4 * c + r) / 4 = c := by omega
  simpa [byteAt, e1, e2] using this

theorem cell_eq_byteAt (b : Block) (r c : Nat) (hr : r < 4) : cell b r c = byteAt b (4 * c + r) := by
  have e1 : (4 * c + r) % 4 = r := by omega
  have e2 : (4 * c + r) / 4 = c := by omega
  simp [byteAt, e1, e2]

theorem quadGet_columnOf (f : Nat → Byte) (r : Fin 4) : quadGet (columnOf f) r = f r.val := by
  revert r
  exact forall_fin_four rfl rfl rfl rfl

theorem cell_blockOfCells (f : Nat → Nat → Byte) (r c : Nat) (hr : r < 4) (hc : c < 4) :
    cell (blockOfCells f) r c = f r c := by
  have h : ∀ (r c : Fin 4), quadGet (quadGet (blockOfCells f) c) r = f r.val c.val := by
    intro r c
    revert c
    refine forall_fin_four ?_ ?_ ?_ ?_
    · exact quadGet_columnOf (fun r => f r 0) r
    · exact quadGet_columnOf (fun r => f r 1) r
    · exact quadGet_columnOf (fun r => f r 2) r
    · exact quadGet_columnOf (fun r => f r 3) r
  have er : Fin.ofNat 4 r = ⟨r, hr⟩ := Fin.ext (Nat.mod_eq_of_lt hr)
  have ec : Fin.ofNat 4 c = ⟨c, hc⟩ := Fin.ext (Nat.mod_eq_of_lt hc)
  unfold cell
  rw [er, ec]
  exact h ⟨r, hr⟩ ⟨c, hc⟩

theorem byteAt_blockOfBytes (f : Nat → Byte) (i : Nat) (h : i < 16) :
    byteAt (blockOfBytes f) i = f i := by
  unfold byteAt blockOfBytes
  rw [cell_blockOfCells _ _ _ (by omega) (by omega)]
  congr 1
  omega

theorem byteAt_blockOfList (l : List Byte) (i : Nat) (h : i < 16) :
    byteAt (blockOfList l) i = l.getD i 0 :=
  byteAt_blockOfBytes _ i h

theorem blockOfBytes_byteAt (b : Block) : blockOfBytes (byteAt b) = b :=
  block_ext_byteAt fun i h => byteAt_blockOfBytes _ i h

@[simp] theorem blockList_length (b : Block) : (blockList b).length = 16 := rfl

theorem blockList_getD (b : Block) (i : Nat) (h : i < 16) : (blockList b).getD i 0 = byteAt b i := by
  interval_cases i <;> rfl

theorem cell_blockMap (f : Byte → Byte) (b : Block) (r c : Nat) :
    cell (blockMap f b) r c = f (cell b r c) := by
  simp [cell, blockMap]

theorem byteAt_blockMap (f : Byte → Byte) (b : Block) (i : Nat) :
    byteAt (blockMap f b) i = f (byteAt b i) :=
  cell_blockMap f b _ _

theorem cell_xorBlock (p q : Block) (r c : Nat) : cell (xorBlock p q) r c = cell p r c ^^^ cell q r c := by
  simp [cell, xorBlock, xorColumn]

theorem byteAt_xorBlock (p q : Block) (i : Nat) :
    byteAt (xorBlock p q) i = byteAt p i ^^^ byteAt q i :=
  cell_xorBlock p q _ _

theorem xorBlock_cancel (p q : Block) : xorBlock (xorBlock p q) q = p :=
  block_ext_byteAt fun i _ => by
    rw [byteAt_xorBlock, byteAt_xorBlock, BitVec.xor_assoc, BitVec.xor_self, BitVec.xor_zero]

@[simp] theorem unpackWord_packWord (q : Column) : unpackWord (packWord q) = q := by
  cases q
  simp only [unpackWord, packWord, Quad.mk.injEq]
  refine ⟨?_, ?_, ?_, ?_⟩ <;> ext i hi <;>
    simp only [BitVec.getElem_extractLsb', BitVec.getLsbD_append] <;>
    grind

@[simp] theorem packWord_unpackWord (v : Word) : packWord (unpackWord v) = v := by
  ext i hi
  simp only [packWord, unpackWord]
  grind

@[simp] theorem unpackQuad_packQuad (q : Quad Word) : unpackQuad (packQuad q) = q := by
  cases q
  simp only [unpackQuad, packQuad, Quad.mk.injEq]
  refine ⟨?_, ?_, ?_, ?_⟩ <;> ext i hi <;>
    simp only [BitVec.getElem_extractLsb', BitVec.getLsbD_append] <;>
    grind

@[simp] theorem packQuad_unpackQuad (v : BitVec 128) : packQuad (unpackQuad v) = v := by
  ext i hi
  simp only [packQuad, unpackQuad]
  grind

@[simp] theorem beInt_be16 (v : BitVec 128) : beInt (be16 v) = v := by
  have h : quadMap packWord (quadMap unpackWord (unpackQuad v)) = unpackQuad v :=
    quad_ext fun j => by simp
  simp [beInt, be16, h]

@[simp] theorem be16_beInt (b : Block) : be16 (beInt b) = b := by
  have h : quadMap unpackWord (quadMap packWord b) = b := quad_ext fun j => by simp
  simp [beInt, be16, h]

end Sys2Proof.Machine
end

