-- ==== Sys2Proof/Laws/Cipher.lean ====
section
/-! SUPPORT. The tables undo each other, and the ciphers read eleven round keys and nothing else. -/

namespace Sys2Proof.Machine

theorem invSbox_sbox : ∀ x : Byte, invSbox (sbox x) = x := by decide +kernel

theorem sbox_invSbox : ∀ x : Byte, sbox (invSbox x) = x := by decide +kernel

theorem cipher_congr {rk rk' : Nat → Block} (h : ∀ r, r < 11 → rk r = rk' r) (b : Block) :
    cipher rk b = cipher rk' b := by
  simp [cipher, encOrder, encRound, h]

theorem invCipher_congr {rk rk' : Nat → Block} (h : ∀ r, r < 11 → rk r = rk' r) (b : Block) :
    invCipher rk b = invCipher rk' b := by
  simp [invCipher, decOrder, decRound, h]

theorem operate_congr {rk rk' : Nat → Block} (f : BlockOp) (h : ∀ r, r < 11 → rk r = rk' r) (b : Block) :
    operate f rk b = operate f rk' b := by
  cases f with
  | fwd => exact cipher_congr h b
  | inv => exact invCipher_congr h b
  | ident => rfl

end Sys2Proof.Machine
end

