-- ==== Sys2Proof/Laws/State.lean ====
section
/-! SUPPORT. One lemma per field per named update of State, each true by unfolding, so that no later
proof unfolds a record update (Machine/Ops.lean). -/

namespace Sys2Proof.Machine

variable (s : State)

/-! ### State.setReg -/

@[simp] theorem State.setReg_err (r : DataReg) (q : Quad DataWord) :
    (s.setReg r q).err = s.err := by cases r <;> rfl
@[simp] theorem State.setReg_errOpc (r : DataReg) (q : Quad DataWord) :
    (s.setReg r q).errOpc = s.errOpc := by cases r <;> rfl
@[simp] theorem State.setReg_errInfo (r : DataReg) (q : Quad DataWord) :
    (s.setReg r q).errInfo = s.errInfo := by cases r <;> rfl
@[simp] theorem State.setReg_dinLen (r : DataReg) (q : Quad DataWord) :
    (s.setReg r q).dinLen = s.dinLen := by cases r <;> rfl
@[simp] theorem State.setReg_keyLen (r : DataReg) (q : Quad DataWord) :
    (s.setReg r q).keyLen = s.keyLen := by cases r <;> rfl
@[simp] theorem State.setReg_ivLen (r : DataReg) (q : Quad DataWord) :
    (s.setReg r q).ivLen = s.ivLen := by cases r <;> rfl
@[simp] theorem State.setReg_doutLen (r : DataReg) (q : Quad DataWord) :
    (s.setReg r q).doutLen = s.doutLen := by cases r <;> rfl
@[simp] theorem State.setReg_mode (r : DataReg) (q : Quad DataWord) :
    (s.setReg r q).mode = s.mode := by cases r <;> rfl
@[simp] theorem State.setReg_dir (r : DataReg) (q : Quad DataWord) :
    (s.setReg r q).dir = s.dir := by cases r <;> rfl
@[simp] theorem State.setReg_op (r : DataReg) (q : Quad DataWord) :
    (s.setReg r q).op = s.op := by cases r <;> rfl
@[simp] theorem State.setReg_active (r : DataReg) (q : Quad DataWord) :
    (s.setReg r q).active = s.active := by cases r <;> rfl
@[simp] theorem State.setReg_rkCount (r : DataReg) (q : Quad DataWord) :
    (s.setReg r q).rkCount = s.rkCount := by cases r <;> rfl
@[simp] theorem State.setReg_gfr (r : DataReg) (q : Quad DataWord) :
    (s.setReg r q).gfr = s.gfr := by cases r <;> rfl
@[simp] theorem State.setReg_blkIdx (r : DataReg) (q : Quad DataWord) :
    (s.setReg r q).blkIdx = s.blkIdx := by cases r <;> rfl
@[simp] theorem State.setReg_w (r : DataReg) (q : Quad DataWord) :
    (s.setReg r q).w = s.w := by cases r <;> rfl
@[simp] theorem State.setReg_pending (r : DataReg) (q : Quad DataWord) :
    (s.setReg r q).pending = s.pending := by cases r <;> rfl
@[simp] theorem State.setReg_observed (r : DataReg) (q : Quad DataWord) :
    (s.setReg r q).observed = s.observed := by cases r <;> rfl
@[simp] theorem State.setReg_draws (r : DataReg) (q : Quad DataWord) :
    (s.setReg r q).draws = s.draws := by cases r <;> rfl

/-! ### State.putBlock -/

@[simp] theorem State.putBlock_err (r : DataReg) (b : Block) :
    (s.putBlock r b).err = s.err := by cases r <;> rfl
@[simp] theorem State.putBlock_errOpc (r : DataReg) (b : Block) :
    (s.putBlock r b).errOpc = s.errOpc := by cases r <;> rfl
@[simp] theorem State.putBlock_errInfo (r : DataReg) (b : Block) :
    (s.putBlock r b).errInfo = s.errInfo := by cases r <;> rfl
@[simp] theorem State.putBlock_dinLen (r : DataReg) (b : Block) :
    (s.putBlock r b).dinLen = s.dinLen := by cases r <;> rfl
@[simp] theorem State.putBlock_keyLen (r : DataReg) (b : Block) :
    (s.putBlock r b).keyLen = s.keyLen := by cases r <;> rfl
@[simp] theorem State.putBlock_ivLen (r : DataReg) (b : Block) :
    (s.putBlock r b).ivLen = s.ivLen := by cases r <;> rfl
@[simp] theorem State.putBlock_doutLen (r : DataReg) (b : Block) :
    (s.putBlock r b).doutLen = s.doutLen := by cases r <;> rfl
@[simp] theorem State.putBlock_mode (r : DataReg) (b : Block) :
    (s.putBlock r b).mode = s.mode := by cases r <;> rfl
@[simp] theorem State.putBlock_dir (r : DataReg) (b : Block) :
    (s.putBlock r b).dir = s.dir := by cases r <;> rfl
@[simp] theorem State.putBlock_op (r : DataReg) (b : Block) :
    (s.putBlock r b).op = s.op := by cases r <;> rfl
@[simp] theorem State.putBlock_active (r : DataReg) (b : Block) :
    (s.putBlock r b).active = s.active := by cases r <;> rfl
@[simp] theorem State.putBlock_rkCount (r : DataReg) (b : Block) :
    (s.putBlock r b).rkCount = s.rkCount := by cases r <;> rfl
@[simp] theorem State.putBlock_gfr (r : DataReg) (b : Block) :
    (s.putBlock r b).gfr = s.gfr := by cases r <;> rfl
@[simp] theorem State.putBlock_blkIdx (r : DataReg) (b : Block) :
    (s.putBlock r b).blkIdx = s.blkIdx := by cases r <;> rfl
@[simp] theorem State.putBlock_w (r : DataReg) (b : Block) :
    (s.putBlock r b).w = s.w := by cases r <;> rfl
@[simp] theorem State.putBlock_pending (r : DataReg) (b : Block) :
    (s.putBlock r b).pending = s.pending := by cases r <;> rfl
@[simp] theorem State.putBlock_observed (r : DataReg) (b : Block) :
    (s.putBlock r b).observed = s.observed := by cases r <;> rfl
@[simp] theorem State.putBlock_draws (r : DataReg) (b : Block) :
    (s.putBlock r b).draws = s.draws := by cases r <;> rfl

/-! ### State.putWord -/

@[simp] theorem State.putWord_err (r : DataReg) (j : Fin 4) (v : Word) :
    (s.putWord r j v).err = s.err := by cases r <;> rfl
@[simp] theorem State.putWord_errOpc (r : DataReg) (j : Fin 4) (v : Word) :
    (s.putWord r j v).errOpc = s.errOpc := by cases r <;> rfl
@[simp] theorem State.putWord_errInfo (r : DataReg) (j : Fin 4) (v : Word) :
    (s.putWord r j v).errInfo = s.errInfo := by cases r <;> rfl
@[simp] theorem State.putWord_dinLen (r : DataReg) (j : Fin 4) (v : Word) :
    (s.putWord r j v).dinLen = s.dinLen := by cases r <;> rfl
@[simp] theorem State.putWord_keyLen (r : DataReg) (j : Fin 4) (v : Word) :
    (s.putWord r j v).keyLen = s.keyLen := by cases r <;> rfl
@[simp] theorem State.putWord_ivLen (r : DataReg) (j : Fin 4) (v : Word) :
    (s.putWord r j v).ivLen = s.ivLen := by cases r <;> rfl
@[simp] theorem State.putWord_doutLen (r : DataReg) (j : Fin 4) (v : Word) :
    (s.putWord r j v).doutLen = s.doutLen := by cases r <;> rfl
@[simp] theorem State.putWord_mode (r : DataReg) (j : Fin 4) (v : Word) :
    (s.putWord r j v).mode = s.mode := by cases r <;> rfl
@[simp] theorem State.putWord_dir (r : DataReg) (j : Fin 4) (v : Word) :
    (s.putWord r j v).dir = s.dir := by cases r <;> rfl
@[simp] theorem State.putWord_op (r : DataReg) (j : Fin 4) (v : Word) :
    (s.putWord r j v).op = s.op := by cases r <;> rfl
@[simp] theorem State.putWord_active (r : DataReg) (j : Fin 4) (v : Word) :
    (s.putWord r j v).active = s.active := by cases r <;> rfl
@[simp] theorem State.putWord_rkCount (r : DataReg) (j : Fin 4) (v : Word) :
    (s.putWord r j v).rkCount = s.rkCount := by cases r <;> rfl
@[simp] theorem State.putWord_gfr (r : DataReg) (j : Fin 4) (v : Word) :
    (s.putWord r j v).gfr = s.gfr := by cases r <;> rfl
@[simp] theorem State.putWord_blkIdx (r : DataReg) (j : Fin 4) (v : Word) :
    (s.putWord r j v).blkIdx = s.blkIdx := by cases r <;> rfl
@[simp] theorem State.putWord_w (r : DataReg) (j : Fin 4) (v : Word) :
    (s.putWord r j v).w = s.w := by cases r <;> rfl
@[simp] theorem State.putWord_pending (r : DataReg) (j : Fin 4) (v : Word) :
    (s.putWord r j v).pending = s.pending := by cases r <;> rfl
@[simp] theorem State.putWord_observed (r : DataReg) (j : Fin 4) (v : Word) :
    (s.putWord r j v).observed = s.observed := by cases r <;> rfl
@[simp] theorem State.putWord_draws (r : DataReg) (j : Fin 4) (v : Word) :
    (s.putWord r j v).draws = s.draws := by cases r <;> rfl

/-! ### State.putOutput -/

@[simp] theorem State.putOutput_err (b : Block) (n : Byte) : (s.putOutput b n).err = s.err := rfl
@[simp] theorem State.putOutput_errOpc (b : Block) (n : Byte) :
    (s.putOutput b n).errOpc = s.errOpc := rfl
@[simp] theorem State.putOutput_errInfo (b : Block) (n : Byte) :
    (s.putOutput b n).errInfo = s.errInfo := rfl
@[simp] theorem State.putOutput_dinLen (b : Block) (n : Byte) :
    (s.putOutput b n).dinLen = s.dinLen := rfl
@[simp] theorem State.putOutput_keyLen (b : Block) (n : Byte) :
    (s.putOutput b n).keyLen = s.keyLen := rfl
@[simp] theorem State.putOutput_ivLen (b : Block) (n : Byte) :
    (s.putOutput b n).ivLen = s.ivLen := rfl
@[simp] theorem State.putOutput_doutLen (b : Block) (n : Byte) :
    (s.putOutput b n).doutLen = n := rfl
@[simp] theorem State.putOutput_mode (b : Block) (n : Byte) : (s.putOutput b n).mode = s.mode := rfl
@[simp] theorem State.putOutput_dir (b : Block) (n : Byte) : (s.putOutput b n).dir = s.dir := rfl
@[simp] theorem State.putOutput_op (b : Block) (n : Byte) : (s.putOutput b n).op = s.op := rfl
@[simp] theorem State.putOutput_active (b : Block) (n : Byte) :
    (s.putOutput b n).active = s.active := rfl
@[simp] theorem State.putOutput_rkCount (b : Block) (n : Byte) :
    (s.putOutput b n).rkCount = s.rkCount := rfl
@[simp] theorem State.putOutput_gfr (b : Block) (n : Byte) : (s.putOutput b n).gfr = s.gfr := rfl
@[simp] theorem State.putOutput_blkIdx (b : Block) (n : Byte) :
    (s.putOutput b n).blkIdx = s.blkIdx := rfl
@[simp] theorem State.putOutput_w (b : Block) (n : Byte) : (s.putOutput b n).w = s.w := rfl
@[simp] theorem State.putOutput_pending (b : Block) (n : Byte) :
    (s.putOutput b n).pending = s.pending := rfl
@[simp] theorem State.putOutput_observed (b : Block) (n : Byte) :
    (s.putOutput b n).observed = s.observed := rfl
@[simp] theorem State.putOutput_draws (b : Block) (n : Byte) :
    (s.putOutput b n).draws = s.draws := rfl

/-! ### State.putRoundWord -/

@[simp] theorem State.putRoundWord_err (i : Fin 44) (v : Word) :
    (s.putRoundWord i v).err = s.err := rfl
@[simp] theorem State.putRoundWord_errOpc (i : Fin 44) (v : Word) :
    (s.putRoundWord i v).errOpc = s.errOpc := rfl
@[simp] theorem State.putRoundWord_errInfo (i : Fin 44) (v : Word) :
    (s.putRoundWord i v).errInfo = s.errInfo := rfl
@[simp] theorem State.putRoundWord_dinLen (i : Fin 44) (v : Word) :
    (s.putRoundWord i v).dinLen = s.dinLen := rfl
@[simp] theorem State.putRoundWord_keyLen (i : Fin 44) (v : Word) :
    (s.putRoundWord i v).keyLen = s.keyLen := rfl
@[simp] theorem State.putRoundWord_ivLen (i : Fin 44) (v : Word) :
    (s.putRoundWord i v).ivLen = s.ivLen := rfl
@[simp] theorem State.putRoundWord_doutLen (i : Fin 44) (v : Word) :
    (s.putRoundWord i v).doutLen = s.doutLen := rfl
@[simp] theorem State.putRoundWord_mode (i : Fin 44) (v : Word) :
    (s.putRoundWord i v).mode = s.mode := rfl
@[simp] theorem State.putRoundWord_dir (i : Fin 44) (v : Word) :
    (s.putRoundWord i v).dir = s.dir := rfl
@[simp] theorem State.putRoundWord_op (i : Fin 44) (v : Word) :
    (s.putRoundWord i v).op = s.op := rfl
@[simp] theorem State.putRoundWord_active (i : Fin 44) (v : Word) :
    (s.putRoundWord i v).active = s.active := rfl
@[simp] theorem State.putRoundWord_rkCount (i : Fin 44) (v : Word) :
    (s.putRoundWord i v).rkCount = s.rkCount := rfl
@[simp] theorem State.putRoundWord_gfr (i : Fin 44) (v : Word) :
    (s.putRoundWord i v).gfr = s.gfr := rfl
@[simp] theorem State.putRoundWord_blkIdx (i : Fin 44) (v : Word) :
    (s.putRoundWord i v).blkIdx = s.blkIdx := rfl
@[simp] theorem State.putRoundWord_w (i : Fin 44) (v : Word) :
    (s.putRoundWord i v).w = s.w.set i (present (unpackWord v)) := rfl
@[simp] theorem State.putRoundWord_pending (i : Fin 44) (v : Word) :
    (s.putRoundWord i v).pending = s.pending := rfl
@[simp] theorem State.putRoundWord_observed (i : Fin 44) (v : Word) :
    (s.putRoundWord i v).observed = s.observed := rfl
@[simp] theorem State.putRoundWord_draws (i : Fin 44) (v : Word) :
    (s.putRoundWord i v).draws = s.draws := rfl
@[simp] theorem State.putRoundWord_reg (i : Fin 44) (v : Word) (d : DataReg) : (s.putRoundWord i v).reg d = s.reg d := by
  cases d <;> rfl
@[simp] theorem State.putRoundWord_stateReg (i : Fin 44) (v : Word) : (s.putRoundWord i v).stateReg = s.stateReg := rfl
@[simp] theorem State.putRoundWord_keyReg (i : Fin 44) (v : Word) : (s.putRoundWord i v).keyReg = s.keyReg := rfl
@[simp] theorem State.putRoundWord_din (i : Fin 44) (v : Word) : (s.putRoundWord i v).din = s.din := rfl
@[simp] theorem State.putRoundWord_dout (i : Fin 44) (v : Word) : (s.putRoundWord i v).dout = s.dout := rfl
@[simp] theorem State.putRoundWord_iv (i : Fin 44) (v : Word) : (s.putRoundWord i v).iv = s.iv := rfl
@[simp] theorem State.putRoundWord_chain (i : Fin 44) (v : Word) : (s.putRoundWord i v).chain = s.chain := rfl

/-! ### State.putRoundKeys -/

@[simp] theorem State.putRoundKeys_err (ws : Vector Column 44) :
    (s.putRoundKeys ws).err = s.err := by simp only [State.putRoundKeys]
@[simp] theorem State.putRoundKeys_errOpc (ws : Vector Column 44) :
    (s.putRoundKeys ws).errOpc = s.errOpc := by simp only [State.putRoundKeys]
@[simp] theorem State.putRoundKeys_errInfo (ws : Vector Column 44) :
    (s.putRoundKeys ws).errInfo = s.errInfo := by simp only [State.putRoundKeys]
@[simp] theorem State.putRoundKeys_dinLen (ws : Vector Column 44) :
    (s.putRoundKeys ws).dinLen = s.dinLen := by simp only [State.putRoundKeys]
@[simp] theorem State.putRoundKeys_keyLen (ws : Vector Column 44) :
    (s.putRoundKeys ws).keyLen = s.keyLen := by simp only [State.putRoundKeys]
@[simp] theorem State.putRoundKeys_ivLen (ws : Vector Column 44) :
    (s.putRoundKeys ws).ivLen = s.ivLen := by simp only [State.putRoundKeys]
@[simp] theorem State.putRoundKeys_doutLen (ws : Vector Column 44) :
    (s.putRoundKeys ws).doutLen = s.doutLen := by simp only [State.putRoundKeys]
@[simp] theorem State.putRoundKeys_mode (ws : Vector Column 44) :
    (s.putRoundKeys ws).mode = s.mode := by simp only [State.putRoundKeys]
@[simp] theorem State.putRoundKeys_dir (ws : Vector Column 44) :
    (s.putRoundKeys ws).dir = s.dir := by simp only [State.putRoundKeys]
@[simp] theorem State.putRoundKeys_op (ws : Vector Column 44) :
    (s.putRoundKeys ws).op = s.op := by simp only [State.putRoundKeys]
@[simp] theorem State.putRoundKeys_active (ws : Vector Column 44) :
    (s.putRoundKeys ws).active = s.active := by simp only [State.putRoundKeys]
@[simp] theorem State.putRoundKeys_rkCount (ws : Vector Column 44) :
    (s.putRoundKeys ws).rkCount = s.rkCount := by simp only [State.putRoundKeys]
@[simp] theorem State.putRoundKeys_gfr (ws : Vector Column 44) :
    (s.putRoundKeys ws).gfr = s.gfr := by simp only [State.putRoundKeys]
@[simp] theorem State.putRoundKeys_blkIdx (ws : Vector Column 44) :
    (s.putRoundKeys ws).blkIdx = s.blkIdx := by simp only [State.putRoundKeys]
@[simp] theorem State.putRoundKeys_w (ws : Vector Column 44) :
    (s.putRoundKeys ws).w = Vector.ofFn fun i : Fin 44 => present ws[i] := by simp only [State.putRoundKeys]
@[simp] theorem State.putRoundKeys_pending (ws : Vector Column 44) :
    (s.putRoundKeys ws).pending = s.pending := by simp only [State.putRoundKeys]
@[simp] theorem State.putRoundKeys_observed (ws : Vector Column 44) :
    (s.putRoundKeys ws).observed = s.observed := by simp only [State.putRoundKeys]
@[simp] theorem State.putRoundKeys_draws (ws : Vector Column 44) :
    (s.putRoundKeys ws).draws = s.draws := by simp only [State.putRoundKeys]
@[simp] theorem State.putRoundKeys_reg (ws : Vector Column 44) (d : DataReg) : (s.putRoundKeys ws).reg d = s.reg d := by
  cases d <;> simp only [State.reg, State.putRoundKeys]
@[simp] theorem State.putRoundKeys_stateReg (ws : Vector Column 44) : (s.putRoundKeys ws).stateReg = s.stateReg := by simp only [State.putRoundKeys]
@[simp] theorem State.putRoundKeys_keyReg (ws : Vector Column 44) : (s.putRoundKeys ws).keyReg = s.keyReg := by simp only [State.putRoundKeys]
@[simp] theorem State.putRoundKeys_din (ws : Vector Column 44) : (s.putRoundKeys ws).din = s.din := by simp only [State.putRoundKeys]
@[simp] theorem State.putRoundKeys_dout (ws : Vector Column 44) : (s.putRoundKeys ws).dout = s.dout := by simp only [State.putRoundKeys]
@[simp] theorem State.putRoundKeys_iv (ws : Vector Column 44) : (s.putRoundKeys ws).iv = s.iv := by simp only [State.putRoundKeys]
@[simp] theorem State.putRoundKeys_chain (ws : Vector Column 44) : (s.putRoundKeys ws).chain = s.chain := by simp only [State.putRoundKeys]

/-! ### State.raise -/

@[simp] theorem State.raise_err (o : BitVec 6) (c : Cause) : (s.raise o c).err = causeCode c := rfl
@[simp] theorem State.raise_errOpc (o : BitVec 6) (c : Cause) : (s.raise o c).errOpc = o := rfl
@[simp] theorem State.raise_errInfo (o : BitVec 6) (c : Cause) :
    (s.raise o c).errInfo = causeInfo c := rfl
@[simp] theorem State.raise_dinLen (o : BitVec 6) (c : Cause) :
    (s.raise o c).dinLen = s.dinLen := rfl
@[simp] theorem State.raise_keyLen (o : BitVec 6) (c : Cause) :
    (s.raise o c).keyLen = s.keyLen := rfl
@[simp] theorem State.raise_ivLen (o : BitVec 6) (c : Cause) : (s.raise o c).ivLen = s.ivLen := rfl
@[simp] theorem State.raise_doutLen (o : BitVec 6) (c : Cause) :
    (s.raise o c).doutLen = s.doutLen := rfl
@[simp] theorem State.raise_mode (o : BitVec 6) (c : Cause) : (s.raise o c).mode = s.mode := rfl
@[simp] theorem State.raise_dir (o : BitVec 6) (c : Cause) : (s.raise o c).dir = s.dir := rfl
@[simp] theorem State.raise_op (o : BitVec 6) (c : Cause) : (s.raise o c).op = s.op := rfl
@[simp] theorem State.raise_active (o : BitVec 6) (c : Cause) :
    (s.raise o c).active = s.active := rfl
@[simp] theorem State.raise_rkCount (o : BitVec 6) (c : Cause) :
    (s.raise o c).rkCount = s.rkCount := rfl
@[simp] theorem State.raise_gfr (o : BitVec 6) (c : Cause) : (s.raise o c).gfr = s.gfr := rfl
@[simp] theorem State.raise_blkIdx (o : BitVec 6) (c : Cause) :
    (s.raise o c).blkIdx = s.blkIdx := rfl
@[simp] theorem State.raise_w (o : BitVec 6) (c : Cause) : (s.raise o c).w = s.w := rfl
@[simp] theorem State.raise_pending (o : BitVec 6) (c : Cause) :
    (s.raise o c).pending = s.pending := rfl
@[simp] theorem State.raise_observed (o : BitVec 6) (c : Cause) :
    (s.raise o c).observed = s.observed := rfl
@[simp] theorem State.raise_draws (o : BitVec 6) (c : Cause) : (s.raise o c).draws = s.draws := rfl
@[simp] theorem State.raise_reg (o : BitVec 6) (c : Cause) (d : DataReg) : (s.raise o c).reg d = s.reg d := by
  cases d <;> rfl
@[simp] theorem State.raise_stateReg (o : BitVec 6) (c : Cause) : (s.raise o c).stateReg = s.stateReg := rfl
@[simp] theorem State.raise_keyReg (o : BitVec 6) (c : Cause) : (s.raise o c).keyReg = s.keyReg := rfl
@[simp] theorem State.raise_din (o : BitVec 6) (c : Cause) : (s.raise o c).din = s.din := rfl
@[simp] theorem State.raise_dout (o : BitVec 6) (c : Cause) : (s.raise o c).dout = s.dout := rfl
@[simp] theorem State.raise_iv (o : BitVec 6) (c : Cause) : (s.raise o c).iv = s.iv := rfl
@[simp] theorem State.raise_chain (o : BitVec 6) (c : Cause) : (s.raise o c).chain = s.chain := rfl

/-! ### State.clearError -/

@[simp] theorem State.clearError_err : (s.clearError).err = 0 := rfl
@[simp] theorem State.clearError_errOpc : (s.clearError).errOpc = 0 := rfl
@[simp] theorem State.clearError_errInfo : (s.clearError).errInfo = 0 := rfl
@[simp] theorem State.clearError_dinLen : (s.clearError).dinLen = s.dinLen := rfl
@[simp] theorem State.clearError_keyLen : (s.clearError).keyLen = s.keyLen := rfl
@[simp] theorem State.clearError_ivLen : (s.clearError).ivLen = s.ivLen := rfl
@[simp] theorem State.clearError_doutLen : (s.clearError).doutLen = s.doutLen := rfl
@[simp] theorem State.clearError_mode : (s.clearError).mode = s.mode := rfl
@[simp] theorem State.clearError_dir : (s.clearError).dir = s.dir := rfl
@[simp] theorem State.clearError_op : (s.clearError).op = s.op := rfl
@[simp] theorem State.clearError_active : (s.clearError).active = s.active := rfl
@[simp] theorem State.clearError_rkCount : (s.clearError).rkCount = s.rkCount := rfl
@[simp] theorem State.clearError_gfr : (s.clearError).gfr = s.gfr := rfl
@[simp] theorem State.clearError_blkIdx : (s.clearError).blkIdx = s.blkIdx := rfl
@[simp] theorem State.clearError_w : (s.clearError).w = s.w := rfl
@[simp] theorem State.clearError_pending : (s.clearError).pending = s.pending := rfl
@[simp] theorem State.clearError_observed : (s.clearError).observed = s.observed := rfl
@[simp] theorem State.clearError_draws : (s.clearError).draws = s.draws := rfl
@[simp] theorem State.clearError_reg (d : DataReg) : (s.clearError).reg d = s.reg d := by
  cases d <;> rfl
@[simp] theorem State.clearError_stateReg : (s.clearError).stateReg = s.stateReg := rfl
@[simp] theorem State.clearError_keyReg : (s.clearError).keyReg = s.keyReg := rfl
@[simp] theorem State.clearError_din : (s.clearError).din = s.din := rfl
@[simp] theorem State.clearError_dout : (s.clearError).dout = s.dout := rfl
@[simp] theorem State.clearError_iv : (s.clearError).iv = s.iv := rfl
@[simp] theorem State.clearError_chain : (s.clearError).chain = s.chain := rfl

/-! ### State.clearControl -/

@[simp] theorem State.clearControl_err : (s.clearControl).err = 0 := rfl
@[simp] theorem State.clearControl_errOpc : (s.clearControl).errOpc = 0 := rfl
@[simp] theorem State.clearControl_errInfo : (s.clearControl).errInfo = 0 := rfl
@[simp] theorem State.clearControl_dinLen : (s.clearControl).dinLen = 0 := rfl
@[simp] theorem State.clearControl_keyLen : (s.clearControl).keyLen = 0 := rfl
@[simp] theorem State.clearControl_ivLen : (s.clearControl).ivLen = 0 := rfl
@[simp] theorem State.clearControl_doutLen : (s.clearControl).doutLen = 0 := rfl
@[simp] theorem State.clearControl_mode : (s.clearControl).mode = .ecb := rfl
@[simp] theorem State.clearControl_dir : (s.clearControl).dir = .enc := rfl
@[simp] theorem State.clearControl_op : (s.clearControl).op = .fwd := rfl
@[simp] theorem State.clearControl_active : (s.clearControl).active = false := rfl
@[simp] theorem State.clearControl_rkCount : (s.clearControl).rkCount = 0 := rfl
@[simp] theorem State.clearControl_gfr : (s.clearControl).gfr = 0 := rfl
@[simp] theorem State.clearControl_blkIdx : (s.clearControl).blkIdx = 0 := rfl
@[simp] theorem State.clearControl_w : (s.clearControl).w = s.w := rfl
@[simp] theorem State.clearControl_pending : (s.clearControl).pending = s.pending := rfl
@[simp] theorem State.clearControl_observed : (s.clearControl).observed = s.observed := rfl
@[simp] theorem State.clearControl_draws : (s.clearControl).draws = s.draws := rfl
@[simp] theorem State.clearControl_reg (d : DataReg) : (s.clearControl).reg d = s.reg d := by
  cases d <;> rfl
@[simp] theorem State.clearControl_stateReg : (s.clearControl).stateReg = s.stateReg := rfl
@[simp] theorem State.clearControl_keyReg : (s.clearControl).keyReg = s.keyReg := rfl
@[simp] theorem State.clearControl_din : (s.clearControl).din = s.din := rfl
@[simp] theorem State.clearControl_dout : (s.clearControl).dout = s.dout := rfl
@[simp] theorem State.clearControl_iv : (s.clearControl).iv = s.iv := rfl
@[simp] theorem State.clearControl_chain : (s.clearControl).chain = s.chain := rfl

/-! ### The 128-bit registers -/

@[simp] theorem State.reg_setReg_self (r : DataReg) (q : Quad DataWord) : (s.setReg r q).reg r = q := by
  cases r <;> rfl

theorem State.reg_setReg_ne (r d : DataReg) (q : Quad DataWord) (h : d ≠ r) :
    (s.setReg r q).reg d = s.reg d := by
  cases r <;> cases d <;> first | rfl | exact absurd rfl h

theorem State.reg_setReg (r d : DataReg) (q : Quad DataWord) :
    (s.setReg r q).reg d = if d = r then q else s.reg d := by
  by_cases h : d = r
  · subst h
    simp
  · rw [State.reg_setReg_ne s r d q h, if_neg h]

theorem State.reg_putBlock (r d : DataReg) (b : Block) :
    (s.putBlock r b).reg d = if d = r then quadMap present b else s.reg d :=
  State.reg_setReg s r d _

theorem State.reg_putOutput (d : DataReg) (b : Block) (n : Byte) :
    (s.putOutput b n).reg d = if d = .dout then quadMap present b else s.reg d := by
  cases d <;> rfl

@[simp] theorem State.reg_putOutput_self (b : Block) (n : Byte) :
    (s.putOutput b n).reg .dout = quadMap present b := rfl

theorem State.reg_putOutput_ne (d : DataReg) (b : Block) (n : Byte) (h : d ≠ .dout) :
    (s.putOutput b n).reg d = s.reg d := by
  rw [State.reg_putOutput, if_neg h]

@[simp] theorem State.reg_putBlock_self (r : DataReg) (b : Block) :
    (s.putBlock r b).reg r = quadMap present b :=
  State.reg_setReg_self s r _

theorem State.reg_putBlock_ne (r d : DataReg) (b : Block) (h : d ≠ r) :
    (s.putBlock r b).reg d = s.reg d :=
  State.reg_setReg_ne s r d _ h

@[simp] theorem State.reg_putWord_self (r : DataReg) (j : Fin 4) (v : Word) :
    (s.putWord r j v).reg r = quadSet (s.reg r) j (present (unpackWord v)) :=
  State.reg_setReg_self s r _

theorem State.reg_putWord_ne (r d : DataReg) (j : Fin 4) (v : Word) (h : d ≠ r) :
    (s.putWord r j v).reg d = s.reg d :=
  State.reg_setReg_ne s r d _ h

end Sys2Proof.Machine
end

