-- ==== Sys2Proof/Laws/Operands.lean ====
section
/-! SUPPORT. What the operand forms read after the named updates (Machine/Operands.lean): a written word
reads as written whatever the draw, and an update elsewhere is not seen. -/

namespace Sys2Proof.Machine

@[simp] theorem contents_present (draw off : Nat) (c : Column) : contents draw off (present c) = c := rfl

theorem contents_of_written {d : DataWord} (draw off : Nat) (h : d.written = true) :
    contents draw off d = d.bytes := by
  simp [contents, h]

/-- A register is read from its words and the draw alone. -/
theorem State.block_congr {s t : State} {r : DataReg} (hr : t.reg r = s.reg r) (hd : t.draws = s.draws) :
    t.block r = s.block r := by
  simp only [State.block, State.dataWord, hr, hd]

theorem State.dataWord_congr {s t : State} {r : DataReg} {j : Fin 4}
    (hr : quadGet (t.reg r) j = quadGet (s.reg r) j) (hd : t.draws = s.draws) :
    t.dataWord r j = s.dataWord r j := by
  simp only [State.dataWord, hr, hd]

/-- A round key is read from the round-key file and the draw alone. -/
theorem State.roundKey_congr {s t : State} (hw : t.w = s.w) (hd : t.draws = s.draws) :
    t.roundKey = s.roundKey := by
  funext r
  simp only [State.roundKey, State.roundWord, hw, hd]

theorem State.roundWord_congr {s t : State} {i : Fin 44} (hw : t.w[i] = s.w[i]) (hd : t.draws = s.draws) :
    t.roundWord i = s.roundWord i := by
  simp only [State.roundWord, hw, hd]

theorem quadGet_block (s : State) (r : DataReg) (j : Fin 4) :
    quadGet (s.block r) j = s.dataWord r j := by
  revert j
  exact forall_fin_four rfl rfl rfl rfl

/-- A register whose words are those of a written block reads as that block. -/
theorem State.block_of_reg {s : State} {r : DataReg} {b : Block} (h : s.reg r = quadMap present b) :
    s.block r = b :=
  quad_ext fun j => by rw [quadGet_block, State.dataWord, h, quadGet_quadMap, contents_present]

@[simp] theorem State.block_putBlock_self (s : State) (r : DataReg) (b : Block) :
    (s.putBlock r b).block r = b :=
  State.block_of_reg (State.reg_putBlock_self s r b)

theorem State.block_putBlock_ne (s : State) (r d : DataReg) (b : Block) (h : d ≠ r) :
    (s.putBlock r b).block d = s.block d :=
  State.block_congr (State.reg_putBlock_ne s r d b h) (State.putBlock_draws s r b)

@[simp] theorem State.roundKey_putBlock (s : State) (r : DataReg) (b : Block) :
    (s.putBlock r b).roundKey = s.roundKey :=
  State.roundKey_congr (State.putBlock_w s r b) (State.putBlock_draws s r b)

@[simp] theorem State.roundWord_putRoundKeys (s : State) (ws : Vector Column 44) (i : Fin 44) :
    (s.putRoundKeys ws).roundWord i = ws[i] := by
  simp [State.roundWord]

end Sys2Proof.Machine
end

