-- ==== Sys2Proof/Laws/Command.lean ====
section
/-! SUPPORT. One lemma per shared operation that says everything it can do: the checks and effects of a
command, what each instruction's meaning is in those terms, illegal words, host accesses. The provers
cite these instead of unfolding the meanings. -/

namespace Sys2Proof.Machine

theorem errorPending_eq_false (s : State) : errorPending s = false ↔ s.err = 0 := by
  simp [errorPending]

theorem errorPending_eq_true (s : State) : errorPending s = true ↔ s.err ≠ 0 := by
  simp [errorPending]

theorem firstError_nil : firstError [] = none := rfl

theorem firstError_cons (failed : Bool) (c : Cause) (rest : List (Bool × Cause)) :
    firstError ((failed, c) :: rest) = if failed then some c else firstError rest := rfl

/-- `command` drops, fails or runs. -/
theorem command_dropped {i : Instr} {checks : List (Bool × Cause)} {effect : State → State} {s : State}
    (h : s.err ≠ 0) : command i checks effect s = .next s := by
  simp [command, (errorPending_eq_true s).2 h]

theorem command_fails {i : Instr} {checks : List (Bool × Cause)} {effect : State → State} {s : State}
    {c : Cause} (h : s.err = 0) (hc : firstError checks = some c) :
    command i checks effect s = .next (s.raise (opcOf i) c) := by
  simp [command, (errorPending_eq_false s).2 h, hc]

theorem command_runs {i : Instr} {checks : List (Bool × Cause)} {effect : State → State} {s : State}
    (h : s.err = 0) (hc : firstError checks = none) :
    command i checks effect s = .next (effect s) := by
  simp [command, (errorPending_eq_false s).2 h, hc]

/-- Everything `command` can do. -/
theorem command_cases (i : Instr) (checks : List (Bool × Cause)) (effect : State → State) (s : State) :
    (s.err ≠ 0 ∧ command i checks effect s = .next s) ∨
    (s.err = 0 ∧ ∃ c, firstError checks = some c ∧
      command i checks effect s = .next (s.raise (opcOf i) c)) ∨
    (s.err = 0 ∧ firstError checks = none ∧ command i checks effect s = .next (effect s)) := by
  by_cases h : s.err = 0
  · cases hc : firstError checks with
    | none => exact .inr (.inr ⟨h, rfl, command_runs h hc⟩)
    | some c => exact .inr (.inl ⟨h, c, rfl, command_fails h hc⟩)
  · exact .inl ⟨h, command_dropped h⟩

/-- The checks of a command, in the order it makes them (R215). -/
def checksOf (i : Instr) (s : State) : List (Bool × Cause) :=
  match i with
  | .subBytes => []
  | .invSubBytes => []
  | .shiftRows => []
  | .invShiftRows => []
  | .mixColumns => []
  | .invMixColumns => []
  | .addRoundKey rnd => roundChecks rnd s
  | .encRound rnd => roundChecks rnd s
  | .decRound rnd => roundChecks rnd s
  | .encryptBlock => blockChecks s
  | .decryptBlock => blockChecks s
  | .gfMul _ _ => []
  | .sboxRead _ => []
  | .invSboxRead _ => []
  | .keyExpand => [badKeyLength s]
  | .modeInit m _ op =>
    match blockOpOfBits op with
    | none => [(true, .illegal .reservedOp)]
    | some _ => modeInitChecks m s
  | .modeBlock => modeBlockChecks s
  | .softReset => []

/-- The effect of a command that passes its checks. -/
def effectOf (i : Instr) (s : State) : State :=
  match i with
  | .subBytes => s.mapState subBytes
  | .invSubBytes => s.mapState invSubBytes
  | .shiftRows => s.mapState shiftRows
  | .invShiftRows => s.mapState invShiftRows
  | .mixColumns => s.mapState mixColumns
  | .invMixColumns => s.mapState invMixColumns
  | .addRoundKey rnd => s.mapState fun b => addRoundKey b (s.roundKey rnd.toNat)
  | .encRound rnd => s.mapState fun b => encRound s.roundKey b rnd.toNat
  | .decRound rnd => s.mapState fun b => decRound s.roundKey b rnd.toNat
  | .encryptBlock => s.blockResult (cipher s.roundKey (s.block .din))
  | .decryptBlock => s.blockResult (invCipher s.roundKey (s.block .din))
  | .gfMul a b => { s with gfr := gmul a b }
  | .sboxRead a => { s with gfr := sbox a }
  | .invSboxRead a => { s with gfr := invSbox a }
  | .keyExpand => { s.putRoundKeys (keyExpansion (s.block .key)) with rkCount := 11 }
  | .modeInit m d op =>
    match blockOpOfBits op with
    | none => s
    | some f => modeInitEffect m d f s
  | .modeBlock => modeBlockEffect s
  | .softReset => s.clearControl

/-- Every command but SOFT_RESET is `command` over its checks and its effect. -/
theorem exec_eq_command (i : Instr) (s : State) (h : i ≠ .softReset) :
    exec i s = command i (checksOf i s) (effectOf i) s := by
  cases i with
  | softReset => exact absurd rfl h
  | modeInit m d op =>
    simp only [exec, execModeInit, checksOf]
    cases hop : blockOpOfBits op <;> simp [command, effectOf, hop]
  | _ => rfl

theorem exec_softReset (s : State) : exec .softReset s = .next s.clearControl := rfl

/-- Everything a command can do: it is dropped, or records its first error, or makes its writes; and
SOFT_RESET always runs. -/
theorem exec_cases (i : Instr) (s : State) :
    (i ≠ .softReset ∧ s.err ≠ 0 ∧ exec i s = .next s) ∨
    (i ≠ .softReset ∧ s.err = 0 ∧ ∃ c, firstError (checksOf i s) = some c ∧
      exec i s = .next (s.raise (opcOf i) c)) ∨
    ((s.err = 0 ∨ i = .softReset) ∧ firstError (checksOf i s) = none ∧
      exec i s = .next (effectOf i s)) := by
  by_cases hi : i = .softReset
  · subst hi
    exact .inr (.inr ⟨.inr rfl, rfl, rfl⟩)
  · rw [exec_eq_command i s hi]
    obtain ⟨h, e⟩ | ⟨h, c, hc, e⟩ | ⟨h, hc, e⟩ := command_cases i (checksOf i s) (effectOf i) s
    · exact .inl ⟨hi, h, e⟩
    · exact .inr (.inl ⟨hi, h, c, hc, e⟩)
    · exact .inr (.inr ⟨.inl h, hc, e⟩)

theorem exec_runs {i : Instr} {s : State} (h : s.err = 0) (hc : firstError (checksOf i s) = none) :
    exec i s = .next (effectOf i s) := by
  by_cases hi : i = .softReset
  · subst hi
    rfl
  · rw [exec_eq_command i s hi, command_runs h hc]

theorem exec_fails {i : Instr} {s : State} {c : Cause} (h : s.err = 0)
    (hc : firstError (checksOf i s) = some c) : exec i s = .next (s.raise (opcOf i) c) := by
  have hi : i ≠ .softReset := by
    rintro rfl
    simp [checksOf, firstError] at hc
  rw [exec_eq_command i s hi, command_fails h hc]

/-- A raised error is pending. -/
theorem causeCode_ne_zero (c : Cause) : causeCode c ≠ 0 := by
  cases c with
  | illegal k => cases k <;> decide
  | _ => decide

/-- A command that runs leaves no error pending. -/
theorem effectOf_err {i : Instr} {s : State} (h : firstError (checksOf i s) = none)
    (hs : s.err = 0 ∨ i = .softReset) : (effectOf i s).err = 0 := by
  cases i with
  | modeInit m d op =>
    simp only [checksOf] at h
    cases hop : blockOpOfBits op with
    | none => simp [hop, firstError] at h
    | some f =>
      simp only [effectOf, hop, modeInitEffect, modeInitChain]
      cases m <;> simp_all
  | modeBlock =>
    simp only [effectOf, modeBlockEffect]
    split <;> simp_all [ecbBlock, cbcEncBlock, cbcDecBlock, ofbBlock, ctrBlock, State.modeResult]
  | keyExpand => simp_all [effectOf]
  | _ => simp_all [effectOf, State.mapState, State.blockResult]

theorem exec_dropped {i : Instr} {s : State} (h : s.err ≠ 0) (hi : i ≠ .softReset) :
    exec i s = .next s := by
  rw [exec_eq_command i s hi, command_dropped h]

/-- A command answers a next state, never a fault or a refusal. -/
theorem exec_answers (i : Instr) (s : State) : ∃ t, exec i s = .next t := by
  obtain ⟨_, _, e⟩ | ⟨_, _, _, _, e⟩ | ⟨_, _, e⟩ := exec_cases i s <;> exact ⟨_, e⟩

/-- Everything an illegal word can do. -/
theorem illegalCommand_cases (opc : BitVec 6) (k : IllegalKind) (s : State) :
    (s.err ≠ 0 ∧ illegalCommand opc k s = .next s) ∨
    (s.err = 0 ∧ illegalCommand opc k s = .next (s.raise opc (.illegal k))) := by
  by_cases h : s.err = 0
  · exact .inr ⟨h, by simp [illegalCommand, (errorPending_eq_false s).2 h]⟩
  · exact .inl ⟨h, by simp [illegalCommand, (errorPending_eq_true s).2 h]⟩

/-- A write of any command word answers a next state. -/
theorem runCommand_answers (cmd : Word) (s : State) : ∃ t, runCommand cmd s = .next t := by
  unfold runCommand
  cases decode cmd with
  | command i => exact exec_answers i s
  | illegal k =>
    obtain ⟨_, e⟩ | ⟨_, e⟩ := illegalCommand_cases (fieldOpc cmd) k s <;> exact ⟨_, e⟩

/-- A write of any register answers a next state. -/
theorem writeReg_answers (r : WindowReg) (v : Word) (s : State) : ∃ t, writeReg r v s = .next t := by
  cases r with
  | cmd => exact runCommand_answers v s
  | _ => exact ⟨_, rfl⟩

theorem busWrite_of_mapped {off : Nat} {r : WindowReg} (h : windowReg off = some r) (v : Word) (s : State) :
    busWrite off v s = writeReg r v s := by
  simp [busWrite, h]

theorem busRead_of_mapped {off : Nat} {r : WindowReg} (h : windowReg off = some r) (s : State) :
    busRead off s = .next { s with observed := s.observed ++ [readReg s r] } := by
  simp [busRead, h]

@[simp] theorem andThen_next (s : State) (f : State → Host.Outcome State Fault Refusal) :
    andThen (.next s) f = f s := rfl

/-- `andThen` ends in a next state exactly through one. -/
theorem andThen_eq_next {o : Host.Outcome State Fault Refusal}
    {f : State → Host.Outcome State Fault Refusal} {t : State} :
    andThen o f = .next t ↔ ∃ u, o = .next u ∧ f u = .next t := by
  cases o <;> simp [andThen]

end Sys2Proof.Machine
end

