-- ==== Sys2Proof/Laws/Decode.lean ====
section
/-! SUPPORT. What the decoder does, row by row of the opcode map (Decode.lean). -/

namespace Sys2Proof

/-- The rows of the opcode map have different OPC values, so no two rows select one word (30_encoding.md R67). -/
theorem opcodeMap_pairwise : opcodeMap.Pairwise fun p q => p.opc ≠ q.opc := by
  decide

/-- The row the decoder finds for the OPC of one of the rows. -/
theorem opcodeMap_find {row : OpcodeRow} (h : row ∈ opcodeMap) :
    opcodeMap.find? (fun r => r.opc == row.opc) = some row := by
  simp only [opcodeMap, List.cons_append, List.nil_append, List.mem_cons, List.not_mem_nil,
    or_false] at h
  rcases h with rfl | rfl | rfl | rfl | rfl | rfl | rfl | rfl | rfl | rfl | rfl | rfl | rfl | rfl
    | rfl | rfl | rfl | rfl <;> rfl

/-- A word whose OPC is a row's decodes by that row (R67). -/
theorem decode_of_row {row : OpcodeRow} {cmd : Word} (h : row ∈ opcodeMap) (hopc : fieldOpc cmd = row.opc) :
    decode cmd =
      if cmd &&& formatMask row.format ≠ row.opc.setWidth 32 then .illegal .reservedBit
      else if row.format = .m ∧ fieldOp cmd = 3 then .illegal .reservedOp
      else .command (row.command cmd) := by
  unfold decode
  rw [hopc, opcodeMap_find h]

/-- A word whose OPC is no row's is illegal (R67). -/
theorem decode_of_no_row {cmd : Word} (h : ∀ row ∈ opcodeMap, row.opc ≠ fieldOpc cmd) :
    decode cmd = .illegal .unassignedOpc := by
  have hn : opcodeMap.find? (fun row => row.opc == fieldOpc cmd) = none := by
    rw [List.find?_eq_none]
    intro row hr
    simpa using h row hr
  unfold decode
  rw [hn]

/-- Every word decodes by a row or by none: the case split on `decode`. -/
theorem decode_cases (cmd : Word) :
    (∃ row ∈ opcodeMap, fieldOpc cmd = row.opc) ∨
    ((∀ row ∈ opcodeMap, row.opc ≠ fieldOpc cmd) ∧ decode cmd = .illegal .unassignedOpc) := by
  by_cases h : ∃ row ∈ opcodeMap, fieldOpc cmd = row.opc
  · exact .inl h
  · have h' : ∀ row ∈ opcodeMap, row.opc ≠ fieldOpc cmd := fun row hr e => h ⟨row, hr, e.symm⟩
    exact .inr ⟨h', decode_of_no_row h'⟩

/-- The command of a row has the row's OPC. -/
theorem opcOf_rowCommand {row : OpcodeRow} (h : row ∈ opcodeMap) (cmd : Word) :
    opcOf (row.command cmd) = row.opc := by
  simp only [opcodeMap, List.cons_append, List.nil_append, List.mem_cons, List.not_mem_nil,
    or_false] at h
  rcases h with rfl | rfl | rfl | rfl | rfl | rfl | rfl | rfl | rfl | rfl | rfl | rfl | rfl | rfl
    | rfl | rfl | rfl | rfl <;> rfl

/-- The command a word decodes to has the word's OPC. -/
theorem opcOf_of_decode {cmd : Word} {i : Instr} (h : decode cmd = .command i) :
    opcOf i = fieldOpc cmd := by
  obtain ⟨row, hr, ho⟩ | ⟨_, hn⟩ := decode_cases cmd
  · rw [decode_of_row hr ho] at h
    split at h
    · cases h
    · split at h
      · cases h
      · injection h with h
        rw [← h, opcOf_rowCommand hr, ho]
  · rw [hn] at h
    cases h

/-- Fields of a word laid out in format N, R, G or M come back (R61 to R65). -/
theorem fieldOpc_wordN (opc : BitVec 6) : fieldOpc (wordN opc) = opc := by
  ext j hj
  simp only [fieldOpc, wordN, BitVec.getElem_extractLsb', BitVec.getLsbD_append]
  grind

theorem fieldOpc_wordR (opc : BitVec 6) (rnd : BitVec 4) : fieldOpc (wordR opc rnd) = opc := by
  ext j hj
  simp only [fieldOpc, wordR, BitVec.getElem_extractLsb', BitVec.getLsbD_append]
  grind

theorem fieldRnd_wordR (opc : BitVec 6) (rnd : BitVec 4) : fieldRnd (wordR opc rnd) = rnd := by
  ext j hj
  simp only [fieldRnd, wordR, BitVec.getElem_extractLsb', BitVec.getLsbD_append]
  grind

theorem fieldOpc_wordG (opc : BitVec 6) (a b : Byte) : fieldOpc (wordG opc a b) = opc := by
  ext j hj
  simp only [fieldOpc, wordG, BitVec.getElem_extractLsb', BitVec.getLsbD_append]
  grind

theorem fieldA_wordG (opc : BitVec 6) (a b : Byte) : fieldA (wordG opc a b) = a := by
  ext j hj
  simp only [fieldA, wordG, BitVec.getElem_extractLsb', BitVec.getLsbD_append]
  grind

theorem fieldB_wordG (opc : BitVec 6) (a b : Byte) : fieldB (wordG opc a b) = b := by
  ext j hj
  simp only [fieldB, wordG, BitVec.getElem_extractLsb', BitVec.getLsbD_append]
  grind

@[simp] theorem modeOfBits_modeBits (m : Mode) : modeOfBits (modeBits m) = m := by
  cases m <;> rfl

@[simp] theorem modeBits_modeOfBits (v : BitVec 2) : modeBits (modeOfBits v) = v := by
  revert v
  decide

@[simp] theorem dirOfBit_dirBit (d : Dir) : dirOfBit (dirBit d) = d := by
  cases d <;> rfl

@[simp] theorem dirBit_dirOfBit (v : BitVec 1) : dirBit (dirOfBit v) = v := by
  revert v
  decide

@[simp] theorem blockOpOfBits_blockOpBits (f : BlockOp) : blockOpOfBits (blockOpBits f) = some f := by
  cases f <;> rfl

/-- OP is no block function exactly where it is 3 (R64). -/
theorem blockOpOfBits_eq_none (v : BitVec 2) : blockOpOfBits v = none ↔ v = 3 := by
  revert v
  decide

end Sys2Proof
end

