-- ==== Sys2Proof/Laws/Frames.lean ====
section
/-! SUPPORT. The frame words of the statements: a register whose storage is the same reads the same, and
what each named update keeps. -/

namespace Sys2Proof.Statement

open Sys2Proof Sys2Proof.Machine

theorem sameReg_refl (s : State) (r : WindowReg) : sameReg s s r := by
  cases r <;> simp [sameReg]

theorem sameHost_refl (s : State) : sameHost s s := ⟨rfl, rfl, rfl⟩

/-- A register with the same storage reads the same at the same draw. -/
theorem readReg_of_sameReg {s t : State} {r : WindowReg} (h : sameReg s t r) (hd : t.draws = s.draws) :
    readReg t r = readReg s r := by
  cases r with
  | data r j =>
    simp only [readReg]
    rw [State.dataWord_congr h hd]
  | roundWord i =>
    simp only [readReg]
    rw [State.roundWord_congr h hd]
  | _ => simp_all [sameReg, readReg, statusWord, lenWord, ctrlWord, rkcntWord, gfrWord]

/-- A frame from the storage alone. -/
theorem keeps_of_sameReg {s t : State} {written : WindowReg → Bool} (hh : sameHost s t)
    (hr : ∀ r, written r = false → sameReg s t r) : keeps s t written :=
  ⟨hh, fun r h => ⟨hr r h, readReg_of_sameReg (hr r h) hh.2.2⟩⟩

theorem keeps_refl (s : State) (written : WindowReg → Bool) : keeps s s written :=
  keeps_of_sameReg (sameHost_refl s) fun r _ => sameReg_refl s r

/-- A wider frame says less. -/
theorem keeps_mono {s t : State} {p q : WindowReg → Bool} (h : keeps s t p)
    (hpq : ∀ r, p r = true → q r = true) : keeps s t q :=
  ⟨h.1, fun r hq => h.2 r (by
    cases hp : p r with
    | false => rfl
    | true =>
      rw [hpq r hp] at hq
      exact absurd hq (by decide))⟩

/-- Two frames in a row. -/
theorem keeps_trans {s t u : State} {p q : WindowReg → Bool} (h : keeps s t p) (k : keeps t u q) :
    keeps s u fun r => p r || q r := by
  obtain ⟨⟨h1, h2, h3⟩, hr⟩ := h
  obtain ⟨⟨k1, k2, k3⟩, kr⟩ := k
  refine keeps_of_sameReg ⟨k1.trans h1, k2.trans h2, k3.trans h3⟩ fun r hpq => ?_
  rw [Bool.or_eq_false_iff] at hpq
  have a := (hr r hpq.1).1
  have b := (kr r hpq.2).1
  cases r <;> simp_all [sameReg]

/-- Raising and clearing an error keep every register but STATUS. -/
theorem keeps_raise (s : State) (o : BitVec 6) (c : Cause) :
    keeps s (s.raise o c) fun r => r == .status := by
  refine keeps_of_sameReg ⟨rfl, rfl, rfl⟩ fun r h => ?_
  cases r <;> simp_all [sameReg]

theorem keeps_clearError (s : State) : keeps s s.clearError fun r => r == .status := by
  refine keeps_of_sameReg ⟨rfl, rfl, rfl⟩ fun r h => ?_
  cases r <;> simp_all [sameReg]

/-- Writing a 128-bit data register keeps every other. -/
theorem keeps_setReg (s : State) (d : DataReg) (q : Quad DataWord) : keeps s (s.setReg d q) (inReg d) := by
  refine keeps_of_sameReg ⟨State.setReg_pending s d q, State.setReg_observed s d q,
    State.setReg_draws s d q⟩ fun r h => ?_
  cases r with
  | data r j =>
    have hne : r ≠ d := by simpa [inReg] using h
    simp [sameReg, State.reg_setReg_ne s d r q hne]
  | _ => simp [sameReg]

theorem keeps_putBlock (s : State) (d : DataReg) (b : Block) : keeps s (s.putBlock d b) (inReg d) :=
  keeps_setReg s d _

/-- Writing DOUT and DOUT_LEN keeps every register but DOUT and LEN. -/
theorem keeps_putOutput (s : State) (b : Block) (n : Byte) :
    keeps s (s.putOutput b n) fun r => inReg .dout r || r == .len := by
  refine keeps_of_sameReg ⟨rfl, rfl, rfl⟩ fun r h => ?_
  cases r with
  | data r j =>
    have hne : r ≠ .dout := by simpa [inReg] using h
    simp [sameReg, State.reg_putOutput_ne s r b n hne]
  | _ => simp_all [sameReg]

/-- Writing the round-key file keeps every other register. -/
theorem keeps_putRoundKeys (s : State) (ws : Vector Column 44) :
    keeps s (s.putRoundKeys ws) inRoundKeys := by
  refine keeps_of_sameReg ⟨by simp, by simp, by simp⟩ fun r h => ?_
  cases r <;> simp_all [sameReg, inRoundKeys]

/-- A written block is held, and read back as it is. -/
theorem holds_of_reg {t : State} {r : DataReg} {b : Block} (h : t.reg r = quadMap present b) :
    holds t r b := by
  refine ⟨fun j => ?_, State.block_of_reg h⟩
  rw [h, quadGet_quadMap]
  rfl

theorem holds_putBlock (s : State) (r : DataReg) (b : Block) : holds (s.putBlock r b) r b :=
  holds_of_reg (State.reg_putBlock_self s r b)

/-- Every cause is a pair R211 lists. -/
theorem cause_listed (c : Cause) : (causeCode c, causeInfo c) ∈ listedErrors := by
  cases c with
  | illegal k => cases k <;> decide
  | _ => decide

/-- STATUS as R212 spells it. -/
theorem statusWord_eq (t : State) : statusWord t = statusValue t.errOpc t.err.toNat t.errInfo.toNat := by
  have h : ∀ (n : BitVec 3) (o : BitVec 6) (e : BitVec 4), 0#13 ++ n ++ 0#2 ++ o ++ 0#4 ++ e
      = BitVec.ofNat 32 (n.toNat * 65536 + o.toNat * 256 + e.toNat) := by decide +kernel
  exact h t.errInfo t.errOpc t.err

end Sys2Proof.Statement
end

