-- ==== Sys2Proof/Laws/PerInstr.lean ====
section
/-! SUPPORT. The statement made per instruction: the word of a command carries the command's OPC in
bits [5:0], whatever its operands (30_encoding.md R60 to R66). -/

namespace Sys2Proof.Laws.Opcode

open Sys2Proof

/-- OPC stands in bits [5:0] of the command's word (R60). -/
def Statement (i : Instr) : Prop :=
  fieldOpc (encode i) = opcOf i

theorem fieldOpc_wordM (opc : BitVec 6) (m : Mode) (d : Dir) (op : BitVec 2) :
    fieldOpc (wordM opc m d op) = opc := by
  ext j hj
  simp only [fieldOpc, wordM, BitVec.getElem_extractLsb', BitVec.getLsbD_append]
  grind

theorem subBytes : Statement .subBytes := fieldOpc_wordN _
theorem invSubBytes : Statement .invSubBytes := fieldOpc_wordN _
theorem shiftRows : Statement .shiftRows := fieldOpc_wordN _
theorem invShiftRows : Statement .invShiftRows := fieldOpc_wordN _
theorem mixColumns : Statement .mixColumns := fieldOpc_wordN _
theorem invMixColumns : Statement .invMixColumns := fieldOpc_wordN _
theorem addRoundKey (rnd : BitVec 4) : Statement (.addRoundKey rnd) := fieldOpc_wordR _ rnd
theorem encRound (rnd : BitVec 4) : Statement (.encRound rnd) := fieldOpc_wordR _ rnd
theorem decRound (rnd : BitVec 4) : Statement (.decRound rnd) := fieldOpc_wordR _ rnd
theorem encryptBlock : Statement .encryptBlock := fieldOpc_wordN _
theorem decryptBlock : Statement .decryptBlock := fieldOpc_wordN _
theorem gfMul (a b : Byte) : Statement (.gfMul a b) := fieldOpc_wordG _ a b
theorem sboxRead (a : Byte) : Statement (.sboxRead a) := fieldOpc_wordG _ a 0
theorem invSboxRead (a : Byte) : Statement (.invSboxRead a) := fieldOpc_wordG _ a 0
theorem keyExpand : Statement .keyExpand := fieldOpc_wordN _
theorem modeInit (mode : Mode) (dir : Dir) (op : BitVec 2) : Statement (.modeInit mode dir op) :=
  fieldOpc_wordM _ mode dir op
theorem modeBlock : Statement .modeBlock := fieldOpc_wordN _
theorem softReset : Statement .softReset := fieldOpc_wordN _

end Sys2Proof.Laws.Opcode
end

