-- ==== Sys2Proof/Tests/Slice0.lean ====
section
/-! SUPPORT. The model's own tests: the WellFormed smoke, words written out from the encoding tables of
30_encoding.md, one-step examples of the spec's rules and of 95_test_vectors.md, and a state that meets
the hypotheses of each statement that has some. -/

namespace Sys2Proof.Tests

open Sys2Proof Sys2Proof.Machine Sys2Proof.Statement

/-! ## States -/

/-- A block from its 32 hex digits (00_scope.md R7). -/
def blk (v : BitVec 128) : Block := be16 v

/-- Key K of 95_test_vectors.md. -/
def keyK : Block := blk 0x000102030405060708090a0b0c0d0e0f#128

/-- Block P0 of 95_test_vectors.md. -/
def p0 : Block := blk 0x00112233445566778899aabbccddeeff#128

/-- The IV of 95_test_vectors.md. -/
def ivV : Block := blk 0xf0f1f2f3f4f5f6f7f8f9fafbfcfdfeff#128

/-- Reset with STATE written. -/
def withState (v : BitVec 128) : State := State.reset.putBlock .state (blk v)

/-- Reset with the lengths declared and the round keys counted, their words still unwritten. -/
def counted : State := { State.reset with rkCount := 11, dinLen := 16, keyLen := 16, ivLen := 16 }

/-- The same with the round keys of K. -/
def loaded : State :=
  { State.reset.putRoundKeys (keyExpansion keyK) with
    rkCount := 11, dinLen := 16, keyLen := 16, ivLen := 16 }

/-- A mode context over `counted`. -/
def context (m : Mode) (d : Dir) (f : BlockOp) : State :=
  { counted with mode := m, dir := d, op := f, active := true }

/-- A mode context over `loaded`, DIN and CHAIN written. -/
def working (m : Mode) (d : Dir) (f : BlockOp) (din chain : Block) : State :=
  ({ loaded with mode := m, dir := d, op := f, active := true }.putBlock .din din).putBlock .chain chain

/-- A state with an error pending. -/
def failed : State := State.reset.raise 0x0A#6 .blockLength

/-- What one step leaves when the host issues `w` as its next command. -/
def issue (s : State) (w : Word) : Option State :=
  match step (s.withFetchWord 32 w.toNat) with
  | .next t => some t
  | .fault _ => none
  | .refused _ => none

/-- A register as a block after that step. -/
def blockAfter (s : State) (w : Word) (r : DataReg) : Option Block :=
  (issue s w).map fun t => t.block r

/-- A control register after that step. -/
def readAfter (s : State) (w : Word) (r : WindowReg) : Option Word :=
  (issue s w).map fun t => readReg t r

/-! ## WellFormed -/

theorem test_wellFormed_refuses_op3 :
    (Instr.modeInit .ecb .enc 3).wellFormed = false ∧ (Instr.modeInit .ctr .dec 3).wellFormed = false := by
  decide

theorem test_wellFormed_accepts :
    (Instr.modeInit .ctr .dec 2).wellFormed = true ∧ (Instr.addRoundKey 15).wellFormed = true ∧
    Instr.subBytes.wellFormed = true := by
  decide

/-! ## Decoding: words laid out from R61 to R66 -/

theorem test_decode_n_transforms :
    decode (0#26 ++ 0x01#6) = .command .subBytes ∧ decode (0#26 ++ 0x02#6) = .command .invSubBytes ∧
    decode (0#26 ++ 0x03#6) = .command .shiftRows ∧ decode (0#26 ++ 0x04#6) = .command .invShiftRows ∧
    decode (0#26 ++ 0x05#6) = .command .mixColumns ∧
    decode (0#26 ++ 0x06#6) = .command .invMixColumns := by
  decide

theorem test_decode_n_others :
    decode (0#26 ++ 0x0A#6) = .command .encryptBlock ∧ decode (0#26 ++ 0x0B#6) = .command .decryptBlock ∧
    decode (0#26 ++ 0x18#6) = .command .keyExpand ∧ decode (0#26 ++ 0x21#6) = .command .modeBlock ∧
    decode (0#26 ++ 0x3F#6) = .command .softReset := by
  decide

theorem test_decode_r :
    decode (0#20 ++ 12#4 ++ 0#2 ++ 0x07#6) = .command (.addRoundKey 12) ∧
    decode (0#20 ++ 1#4 ++ 0#2 ++ 0x08#6) = .command (.encRound 1) ∧
    decode (0#20 ++ 10#4 ++ 0#2 ++ 0x09#6) = .command (.decRound 10) := by
  decide

theorem test_decode_g :
    decode (0x83#8 ++ 0x57#8 ++ 0#10 ++ 0x10#6) = .command (.gfMul 0x57 0x83) ∧
    decode (0#8 ++ 0x53#8 ++ 0#10 ++ 0x11#6) = .command (.sboxRead 0x53) ∧
    decode (0#8 ++ 0xED#8 ++ 0#10 ++ 0x12#6) = .command (.invSboxRead 0xED) := by
  decide

theorem test_decode_m :
    decode (0#11 ++ 1#2 ++ 1#1 ++ 1#2 ++ 0#10 ++ 0x20#6) = .command (.modeInit .cbc .dec 1) ∧
    decode (0#11 ++ 2#2 ++ 0#1 ++ 3#2 ++ 0#10 ++ 0x20#6) = .command (.modeInit .ctr .enc 2) := by
  decide

/-- V15 and R68: the ends of every unassigned range, and the order of the decode checks. -/
theorem test_decode_illegal_ranges :
    ∀ opc ∈ [0x00, 0x0C, 0x0F, 0x13, 0x17, 0x19, 0x1F, 0x22, 0x3E],
      unassigned opc ∧ decode (BitVec.ofNat 32 opc) = .illegal .unassignedOpc := by
  unfold unassigned
  decide

theorem test_decode_assigned_beside_ranges :
    ∀ opc ∈ [0x01, 0x0B, 0x10, 0x12, 0x18, 0x20, 0x21, 0x3F], ¬ unassigned opc := by
  unfold unassigned
  decide

theorem test_decode_illegal_order :
    decode 0x80000000#32 = .illegal .unassignedOpc ∧ decode 0x00000101#32 = .illegal .reservedBit ∧
    decode 0x01000011#32 = .illegal .reservedBit ∧ decode 0x8000003F#32 = .illegal .reservedBit ∧
    decode 0x80180020#32 = .illegal .reservedBit ∧ decode 0x00180020#32 = .illegal .reservedOp := by
  decide

theorem test_decodeTableWord :
    decodeTableWord 32 0x00000108 = some (.encRound 1) ∧ decodeTableWord 32 0x00180020 = none ∧
    decodeTableWord 40 1 = none := by
  decide

/-! ## One command each: the examples of the rules and of 95_test_vectors.md -/

/-- R101 and R103, examples. -/
theorem test_sub_bytes :
    blockAfter (withState 0x00102030405060708090a0b0c0d0e0f0#128) 0x01#32 .state
      = some (blk 0x63cab7040953d051cd60e0e7ba70e18c#128) := by
  decide +kernel

theorem test_inv_sub_bytes :
    blockAfter (withState 0x63cab7040953d051cd60e0e7ba70e18c#128) 0x02#32 .state
      = some (blk 0x00102030405060708090a0b0c0d0e0f0#128) := by
  decide +kernel

/-- R105 and R107, examples. -/
theorem test_shift_rows :
    blockAfter (withState 0x000102030405060708090a0b0c0d0e0f#128) 0x03#32 .state
      = some (blk 0x00050a0f04090e03080d02070c01060b#128) := by
  decide +kernel

theorem test_inv_shift_rows :
    blockAfter (withState 0x000102030405060708090a0b0c0d0e0f#128) 0x04#32 .state
      = some (blk 0x000d0a0704010e0b0805020f0c090603#128) := by
  decide +kernel

/-- R109 and R111, examples. -/
theorem test_mix_columns :
    blockAfter (withState 0x6353e08c0960e104cd70b751bacad0e7#128) 0x05#32 .state
      = some (blk 0x5f72641557f5bc92f7be3b291db9f91a#128) := by
  decide +kernel

theorem test_inv_mix_column :
    invMixColumn ⟨0xdb, 0x13, 0x53, 0x45⟩ = ⟨0x32, 0xa4, 0x1d, 0x55⟩ ∧
    invMixColumn ⟨0x8e, 0x4d, 0xa1, 0xbc⟩ = ⟨0xdb, 0x13, 0x53, 0x45⟩ := by
  decide +kernel

/-- R113, example; V9: RANGE for RND = 12, LENGTH with no round key. -/
theorem test_add_round_key :
    blockAfter (loaded.putBlock .state p0) 0x07#32 .state
      = some (blk 0x00102030405060708090a0b0c0d0e0f0#128) := by
  decide +kernel

theorem test_add_round_key_errors :
    readAfter counted 0x00000C07#32 .status = some 0x00010703#32 ∧
    readAfter State.reset 0x07#32 .status = some 0x00030702#32 := by
  decide +kernel

/-- R135, example. -/
theorem test_enc_round :
    blockAfter (loaded.putBlock .state (blk 0x00102030405060708090a0b0c0d0e0f0#128)) 0x108#32 .state
      = some (blk 0x89d810e8855ace682d1843d8cb128fe4#128) := by
  decide +kernel

/-- R136, example. -/
theorem test_dec_round :
    blockAfter (loaded.putBlock .state (blk 0x7ad5fda789ef4e272bca100b3d9ff59f#128)) 0x909#32 .state
      = some (blk 0x54d990a16ba09ab596bbf40ea111702f#128) := by
  decide +kernel

/-- R137, the known-answer test; V10: LENGTH for DIN_LEN = 15. -/
theorem test_encrypt_block :
    blockAfter (loaded.putBlock .din p0) 0x0A#32 .dout
      = some (blk 0x69c4e0d86a7b0430d8cdb78070b4c55a#128) := by
  decide +kernel

theorem test_encrypt_block_error :
    readAfter { counted with dinLen := 15 } 0x0A#32 .status = some 0x00010A02#32 ∧
    readAfter { counted with rkCount := 0 } 0x0A#32 .status = some 0x00030A02#32 := by
  decide +kernel

/-- R138, example. -/
theorem test_decrypt_block :
    blockAfter (loaded.putBlock .din (blk 0x69c4e0d86a7b0430d8cdb78070b4c55a#128)) 0x0B#32 .dout
      = some p0 := by
  decide +kernel

/-- R90 to R92, examples and corner cases; V7. -/
theorem test_gf_mul :
    readAfter State.reset 0x83570010#32 .gfr = some 0xC1#32 ∧
    readAfter State.reset 0x02800010#32 .gfr = some 0x1B#32 ∧
    readAfter State.reset 0xFFFF0010#32 .gfr = some 0x13#32 := by
  decide +kernel

theorem test_sbox_read :
    readAfter State.reset 0x00530011#32 .gfr = some 0xED#32 ∧
    readAfter State.reset 0x00FF0011#32 .gfr = some 0x16#32 := by
  decide +kernel

theorem test_inv_sbox_read :
    readAfter State.reset 0x00ED0012#32 .gfr = some 0x53#32 ∧
    readAfter State.reset 0x00000012#32 .gfr = some 0x52#32 := by
  decide +kernel

/-- R124, example (V3), and V9: LENGTH for KEY_LEN = 10. -/
theorem test_key_expand :
    (issue ({ State.reset with keyLen := 16 }.putBlock .key keyK) 0x18#32).map (fun t =>
        (readReg t (.roundWord 4), readReg t (.roundWord 43), readReg t .rkcnt))
      = some (0xd6aa74fd#32, 0x4d2b30c5#32, 11#32) := by
  decide +kernel

theorem test_key_expand_error :
    readAfter { State.reset with keyLen := 10 } 0x18#32 .status = some 0x00021802#32 := by
  decide +kernel

/-- R153, example; R154: the counter base of an 8-byte nonce (V13). -/
theorem test_mode_init_cbc :
    (issue (counted.putBlock .iv ivV) 0x00010020#32).map (fun t => (t.block .chain, readReg t .ctrl))
      = some (ivV, 0x81#32) := by
  decide +kernel

theorem test_mode_init_ctr :
    blockAfter ({ counted with ivLen := 8 }.putBlock .iv (blk 0x0001020304050607ffffffffffffffff#128))
        0x00030020#32 .chain
      = some (blk 0x00000000000000000001020304050607#128) := by
  decide +kernel

/-- R160, example; V13: a short OFB block. -/
theorem test_mode_block_cbc :
    (issue (working .cbc .enc .fwd p0 ivV) 0x21#32).map (fun t => (t.block .dout, t.block .chain))
      = some (blk 0x7702fc9b71c63d26a2f09df5c445102a#128, blk 0x7702fc9b71c63d26a2f09df5c445102a#128) := by
  decide +kernel

theorem test_mode_block_ofb_short :
    (issue { working .ofb .enc .fwd p0 ivV with dinLen := 3 } 0x21#32).map
        (fun t => (t.block .dout, t.block .chain, t.doutLen))
      = some (blk 0x66b6e500000000000000000000000000#128, blk 0x66a7c7e8345231489751de073316adad#128, 3) := by
  decide +kernel

/-- R180: SOFT_RESET runs while an error is pending; V15: an illegal word. -/
theorem test_soft_reset :
    (issue failed 0x3F#32).map (fun t => (readReg t .status, readReg t .len)) = some (0#32, 0#32) := by
  decide +kernel

theorem test_illegal_word :
    readAfter State.reset 0x00180020#32 .status = some 0x00032001#32 ∧
    readAfter failed 0x00000001#32 .status = some 0x00010A02#32 := by
  decide +kernel

/-! ## Host accesses -/

/-- R43, R219: bus errors. -/
theorem test_bus_error :
    hostEvent (.read .bits32 0x018) State.reset = .fault .busError ∧
    hostEvent (.read .bits32 2) State.reset = .fault .busError ∧
    hostEvent (.write .bits8 0x020 0) State.reset = .fault .busError :=
  ⟨rfl, rfl, rfl⟩

/-- R45: the packing example. -/
theorem test_packing :
    packWord p0.a0 = 0x00112233#32 ∧ packWord p0.a3 = 0xccddeeff#32 := by
  decide +kernel

/-- R70: lines and words of 95_test_vectors.md and of the rules' examples. -/
theorem test_assemble :
    assembleWord "gf_mul 0x57, 0x83" = some 0x83570010#32 ∧ assembleWord "enc_round 1" = some 0x108#32 ∧
    assembleWord "add_round_key 12" = some 0xC07#32 ∧ assembleWord "sub_bytes" = some 0x01#32 ∧
    assembleWord "mode_init cbc, dec, inv" = some 0x000D0020#32 ∧
    assembleWord "inv_sbox_read 0xED" = some 0x00ED0012#32 ∧ assembleWord "enc_round 16" = none := by
  decide +kernel

/-- R194, R198: a 15-byte ciphertext. -/
theorem test_ragged_ciphertext_stops :
    procError (modeDecrypt .cbc (blockList keyK) (blockList ivV) ((blockList p0).take 15) State.reset)
      = some 0x00012102#32 := by
  decide +kernel

/-- R192: `strip_zeros(zero_pad(41 00))` is `41`. -/
theorem test_strip_zero_pad : stripZeros (zeroPad [0x41, 0x00]) = [0x41] := by
  decide

/-- R198: a 10-byte key. -/
theorem test_bad_key_stops :
    procError (modeEncrypt .cbc [0, 1, 2, 3, 4, 5, 6, 7, 8, 9] (blockList ivV) (blockList p0) State.reset)
      = some 0x00021802#32 := by
  decide +kernel

/-! ## Witnesses: the hypotheses of the statements can be met -/

theorem test_witness_encoding :
    (Instr.modeInit .ctr .dec 2).wellFormed = true ∧ (Instr.encRound 15).wellFormed = true ∧
    decode 0x00170020#32 = .command (.modeInit .ctr .dec 2) := by
  decide

theorem test_witness_numberText :
    numberText 0 "0" ∧ numberText 15 "15" ∧ numberText 15 "0xf" ∧ numberText 255 "255" ∧
    numberText 255 "0xff" := by
  unfold numberText
  decide +kernel

theorem test_witness_assembledLine :
    assembleLine "mode_init ctr, dec, id" = some (.modeInit .ctr .dec 2) := by
  decide +kernel

theorem test_witness_illegalWords :
    State.reset.err = 0 ∧ decode 0#32 = .illegal .unassignedOpc ∧
    decode 0x80000001#32 = .illegal .reservedBit ∧ decode 0x00180020#32 = .illegal .reservedOp := by
  decide

theorem test_witness_stepRuns :
    (State.reset.withFetchWord 32 1).pending = [commandWrite 1#32] ∧ decode 1#32 = .command .subBytes ∧
    State.reset.pending = [] :=
  ⟨rfl, by decide, rfl⟩

theorem test_witness_errors : ∃ t, State.reset.err = 0 ∧
    busWrite 0x000 0x18#32 State.reset = .next t ∧ t.err ≠ 0 :=
  ⟨_, rfl, rfl, by decide⟩

theorem test_witness_pendingError :
    failed.err ≠ 0 ∧ (0x0000000A#32 : Word) ≠ 0x0000003F#32 ∧ WindowReg.len ≠ .cmd ∧
    WindowReg.len ≠ .status := by
  decide

theorem test_witness_statusClear :
    (0x80000000#32).getLsbD 31 = true ∧ (0x7FFFFFFF#32).getLsbD 31 = false := by
  decide

theorem test_witness_badAccess :
    (∀ off ∈ [0x002, 0x018, 0x01C, 0x090, 0x0FC, 0x1B0, 0x1FC], badAccess .bits32 off) ∧
    (∀ off ∈ [0x000, 0x014, 0x020, 0x08C, 0x100, 0x1AC], ¬ badAccess .bits32 off) ∧
    badAccess .bits16 0x020 := by
  unfold badAccess
  decide

theorem test_witness_storesWord :
    storesWord (.data .chain 3) = true ∧ storesWord (.blkIdx 0) = true ∧
    storesWord (.roundWord 43) = true ∧ storesWord (.data .dout 0) = false := by
  decide

theorem test_witness_packed : (15 : Nat) < 16 ∧ DataReg.chain ≠ .dout := by
  decide

theorem test_witness_noError : State.reset.err = 0 ∧ counted.err = 0 := by
  decide

theorem test_witness_sboxReads : ∃ t u, State.reset.err = 0 ∧
    exec (.sboxRead 0x53) State.reset = .next t ∧ exec (.invSboxRead t.gfr) t = .next u :=
  ⟨_, _, rfl, rfl, rfl⟩

theorem test_witness_invSboxReads : ∃ t u, State.reset.err = 0 ∧
    exec (.invSboxRead 0x53) State.reset = .next t ∧ exec (.sboxRead t.gfr) t = .next u :=
  ⟨_, _, rfl, rfl, rfl⟩

theorem test_witness_rounds :
    counted.err = 0 ∧ counted.rkCount = 11 ∧ (0#4).toNat = 0 ∧ 1 ≤ (1#4).toNat ∧ (9#4).toNat ≤ 9 ∧
    (10#4).toNat ≤ 10 := by
  decide

theorem test_witness_roundErrors :
    State.reset.err = 0 ∧ 10 < (11#4).toNat ∧ 10 < (15#4).toNat ∧ (10#4).toNat ≤ 10 ∧
    State.reset.rkCount ≠ 11 := by
  decide

theorem test_witness_keyExpand :
    counted.err = 0 ∧ counted.keyLen = 16 ∧ State.reset.keyLen ≠ 16 := by
  decide

theorem test_witness_keyExpandTwice : ∃ t t', counted.err = 0 ∧ counted.keyLen = 16 ∧
    ({ counted with gfr := 1 } : State).err = 0 ∧ ({ counted with gfr := 1 } : State).keyLen = 16 ∧
    counted.block .key = ({ counted with gfr := 1 } : State).block .key ∧
    exec .keyExpand counted = .next t ∧ exec .keyExpand { counted with gfr := 1 } = .next t' :=
  ⟨_, _, rfl, rfl, rfl, rfl, rfl, rfl, rfl⟩

theorem test_witness_roundKeysOutlive : ∃ t, exec .subBytes State.reset = .next t ∧
    Instr.subBytes ≠ .keyExpand ∧ Instr.subBytes ≠ .softReset :=
  ⟨_, rfl, by decide, by decide⟩

theorem test_witness_blocks :
    counted.err = 0 ∧ counted.dinLen = 16 ∧ counted.rkCount = 11 := by
  decide

theorem test_witness_lengthErrors :
    State.reset.err = 0 ∧ ({ counted with keyLen := 17 } : State).keyLen ≠ 16 ∧
    ({ counted with dinLen := 15 } : State).dinLen ≠ 16 ∧
    ({ counted with rkCount := 10 } : State).dinLen = 16 ∧
    ({ counted with rkCount := 10 } : State).rkCount ≠ 11 := by
  decide

theorem test_witness_modeInit :
    counted.err = 0 ∧ counted.ivLen = 16 ∧ ({ counted with ivLen := 0 } : State).ivLen.toNat ≤ 16 ∧
    counted.ivLen.toNat ≤ 16 := by
  decide

theorem test_witness_modeInitErrors :
    ({ counted with ivLen := 15 } : State).err = 0 ∧ ({ counted with ivLen := 15 } : State).ivLen ≠ 16 ∧
    16 < ({ counted with ivLen := 17 } : State).ivLen.toNat := by
  decide

theorem test_witness_modeBlockErrors :
    State.reset.err = 0 ∧ State.reset.active = false ∧
    (context .cbc .enc .fwd).active = true ∧ (context .cbc .enc .fwd).mode = .cbc ∧
    ({ context .cbc .enc .fwd with dinLen := 17 } : State).dinLen ≠ 16 ∧
    (context .ofb .enc .fwd).mode = .ofb ∧
    ({ context .ofb .enc .fwd with dinLen := 0 } : State).dinLen.toNat = 0 ∧
    16 < ({ context .ofb .enc .fwd with dinLen := 17 } : State).dinLen.toNat := by
  decide

theorem test_witness_modeBlockNoKeys :
    ({ context .ecb .enc .fwd with rkCount := 10 } : State).mode = .ecb ∧
    ({ context .ecb .enc .fwd with rkCount := 10 } : State).dinLen = 16 ∧
    ({ context .ecb .enc .fwd with rkCount := 10 } : State).op ≠ .ident ∧
    ({ context .ecb .enc .fwd with rkCount := 10 } : State).rkCount ≠ 11 ∧
    ({ context .ctr .enc .inv with rkCount := 12, dinLen := 1 } : State).mode = .ctr ∧
    1 ≤ ({ context .ctr .enc .inv with rkCount := 12, dinLen := 1 } : State).dinLen.toNat ∧
    ({ context .ctr .enc .inv with rkCount := 12, dinLen := 1 } : State).rkCount ≠ 11 := by
  decide

theorem test_witness_readyBlock :
    readyBlock (context .ecb .enc .fwd) ∧ readyBlock (context .cbc .enc .fwd) ∧
    readyBlock (context .cbc .dec .inv) ∧ readyBlock { context .ecb .dec .ident with rkCount := 0 } ∧
    (context .ecb .enc .fwd).mode = .ecb ∧ (context .cbc .enc .fwd).mode = .cbc ∧
    (context .cbc .enc .fwd).dir = .enc ∧ (context .cbc .dec .inv).dir = .dec := by
  unfold readyBlock
  decide

theorem test_witness_readyStream :
    readyStream { context .ofb .enc .fwd with dinLen := 1 } ∧ readyStream (context .ofb .dec .fwd) ∧
    readyStream { context .ctr .enc .fwd with dinLen := 1 } ∧ readyStream (context .ctr .dec .ident) ∧
    (context .ofb .enc .fwd).mode = .ofb ∧ (context .ctr .enc .fwd).mode = .ctr := by
  unfold readyStream
  decide

theorem test_witness_cbcUndo : ∃ s s' t t' : State, readyBlock s ∧ readyBlock s' ∧
    s.mode = .cbc ∧ s.dir = .enc ∧ s.op = .fwd ∧ s'.mode = .cbc ∧ s'.dir = .dec ∧ s'.op = .inv ∧
    (∀ r, r < 11 → s'.roundKey r = s.roundKey r) ∧ s'.block .chain = s.block .chain ∧
    exec .modeBlock s = .next t ∧ s'.block .din = t.block .dout ∧ exec .modeBlock s' = .next t' := by
  refine ⟨context .cbc .enc .fwd, (context .cbc .dec .inv).putBlock .din
      ((modeBlockEffect (context .cbc .enc .fwd)).block .dout), modeBlockEffect (context .cbc .enc .fwd),
    modeBlockEffect ((context .cbc .dec .inv).putBlock .din
      ((modeBlockEffect (context .cbc .enc .fwd)).block .dout)), by unfold readyBlock; decide,
    ⟨rfl, rfl, rfl, .inr rfl⟩, rfl, rfl, rfl, rfl, rfl, rfl, fun r _ => ?_, ?_, rfl, ?_, rfl⟩
  · rw [State.roundKey_putBlock]
    rfl
  · rw [State.block_putBlock_ne _ _ _ _ (by decide)]
    rfl
  · rw [State.block_putBlock_self]

theorem test_witness_streamUndo : ∃ t t' : State, readyStream (context .ctr .enc .fwd) ∧
    (context .ctr .enc .fwd).mode = .ctr ∧ exec .modeBlock (context .ctr .enc .fwd) = .next t ∧
    exec .modeBlock ((({ t with blkIdx := (context .ctr .enc .fwd).blkIdx }).putBlock .chain
      ((context .ctr .enc .fwd).block .chain)).putBlock .din (t.block .dout)) = .next t' :=
  ⟨modeBlockEffect (context .ctr .enc .fwd), _, by unfold readyStream; decide, rfl, rfl, rfl⟩

theorem test_witness_independent : ∃ t t' : State,
    exec .modeBlock (context .ctr .enc .fwd) = .next t ∧
    exec .modeBlock (context .ctr .dec .fwd) = .next t' ∧
    readyStream (context .ctr .enc .fwd) ∧ readyStream (context .ctr .dec .fwd) ∧
    (context .ctr .dec .fwd).block .din = (context .ctr .enc .fwd).block .din ∧
    (context .ctr .dec .fwd).block .chain = (context .ctr .enc .fwd).block .chain ∧
    (∀ r, r < 11 → (context .ctr .dec .fwd).roundKey r = (context .ctr .enc .fwd).roundKey r) ∧
    readyBlock (context .ecb .enc .fwd) ∧ readyBlock (context .ecb .dec .fwd) :=
  ⟨_, _, rfl, rfl, by unfold readyStream; decide, by unfold readyStream; decide, rfl, rfl,
    fun _ _ => rfl, by unfold readyBlock; decide, by unfold readyBlock; decide⟩

theorem test_witness_counterWraps :
    readyStream ((context .ctr .enc .ident).putBlock .din (blockOfList [])) ∧
    ((context .ctr .enc .ident).putBlock .din (blockOfList [])).mode = .ctr ∧
    ((context .ctr .enc .ident).putBlock .din (blockOfList [])).op = .ident ∧
    ((context .ctr .enc .ident).putBlock .din (blockOfList [])).dinLen = 16 ∧
    ((context .ctr .enc .ident).putBlock .din (blockOfList [])).block .din = blockOfList [] :=
  ⟨by unfold readyStream; decide, rfl, rfl, rfl, State.block_putBlock_self _ _ _⟩

theorem test_witness_direction : (context .ofb .enc .fwd).mode ≠ .cbc := by
  decide

theorem test_witness_reset : ∃ s t : State, hostEvent .reset s = .next t ∧ s = failed :=
  ⟨_, _, rfl, rfl⟩

theorem test_witness_rnd10 : (10#4).toNat ≤ 10 ∧ (0#4).toNat ≤ 10 ∧ 10 < (11#4).toNat := by
  decide

theorem test_witness_rows : ∃ t u v w : State,
    (exec (.gfMul 2 3) State.reset = .next t ∧ State.reset.err = 0 ∧ t.err = 0) ∧
    (exec .softReset failed = .next u ∧ u.err = 0) ∧
    (exec .keyExpand State.reset = .next v ∧ State.reset.err = 0 ∧ v.err ≠ 0) ∧
    (exec .subBytes failed = .next w ∧ failed.err ≠ 0) :=
  ⟨_, _, _, _, ⟨rfl, rfl, rfl⟩, ⟨rfl, rfl⟩, ⟨rfl, rfl, by decide⟩, ⟨rfl, by decide⟩⟩

theorem test_witness_allOrNothing : ∃ t, exec .keyExpand State.reset = .next t ∧ t.err ≠ 0 :=
  ⟨_, rfl, by decide⟩

/-- A state with the invariant in which the next access is a command, and the step it takes. -/
theorem test_witness_inv : ∃ t, (State.reset.withFetchWord 32 0x18).Inv ∧
    step (State.reset.withFetchWord 32 0x18) = .next t :=
  ⟨_, by unfold State.Inv; decide, rfl⟩

theorem test_witness_noLeak :
    consumesUnwritten (.gfMul 2 3) State.reset = false ∧ consumesUnwritten .keyExpand State.reset = false ∧
    consumesUnwritten .subBytes (withState 0#128) = false ∧
    consumesUnwritten .subBytes State.reset = true := by
  decide +kernel

theorem test_witness_procedureErrors :
    (List.replicate 15 (0 : Byte)).length ≠ 16 ∧ (List.replicate 300 (0 : Byte)).length ≠ 16 ∧
    (blockList keyK).length = 16 ∧ (blockList ivV).length = 16 ∧
    (List.replicate 10 (0 : Byte)).length ≠ 16 ∧
    (List.replicate 1 (0 : Byte)).length % 16 ≠ 0 ∧ (List.replicate 31 (0 : Byte)).length % 16 ≠ 0 ∧
    16 < (List.replicate 17 (0 : Byte)).length := by
  simp only [List.length_replicate, blockList_length]
  decide

theorem test_witness_roundTrips :
    (blockList keyK).length = 16 ∧ (blockList ivV).length = 16 ∧ ([] : List Byte).length ≤ 16 := by
  simp

end Sys2Proof.Tests
end

section
/-! SUPPORT. The frame of every command (10_state.md R30): what the remaining updates of the model keep, and
from these, one frame lemma for the effect of any command. -/

namespace Sys2Proof.Statement

open Sys2Proof Sys2Proof.Machine

/-! ### Frames of the updates -/

theorem keeps_gfr (s : State) (x : Byte) : keeps s { s with gfr := x } fun r => r == .gfr :=
  keeps_of_sameReg ⟨rfl, rfl, rfl⟩ fun r h => by
    cases r <;> simp_all [sameReg, State.reg]

theorem keeps_rkCount (s : State) (n : BitVec 4) : keeps s { s with rkCount := n } fun r => r == .rkcnt :=
  keeps_of_sameReg ⟨rfl, rfl, rfl⟩ fun r h => by
    cases r <;> simp_all [sameReg, State.reg]

theorem keeps_blkIdx (s : State) (v : BitVec 128) : keeps s { s with blkIdx := v } inBlkIdx :=
  keeps_of_sameReg ⟨rfl, rfl, rfl⟩ fun r h => by
    cases r <;> simp_all [sameReg, State.reg, inBlkIdx]

/-- A new mode context is CTRL and BLKIDX (44_modes.md R153). -/
theorem keeps_context (s : State) (m : Mode) (d : Dir) (f : BlockOp) :
    keeps s { s with mode := m, dir := d, op := f, active := true, blkIdx := 0 }
      fun r => r == .ctrl || inBlkIdx r :=
  keeps_of_sameReg ⟨rfl, rfl, rfl⟩ fun r h => by
    cases r <;> simp_all [sameReg, State.reg, inBlkIdx]

theorem keeps_clearControl (s : State) : keeps s s.clearControl (writesByR30 .softReset s) :=
  keeps_of_sameReg ⟨rfl, rfl, rfl⟩ fun r h => by
    cases r <;> simp_all [sameReg, writesByR30, inBlkIdx]

theorem keeps_mapState (s : State) (f : Block → Block) : keeps s (s.mapState f) (inReg .state) :=
  keeps_putBlock s .state _

theorem keeps_modeInitChain (m : Mode) (s : State) :
    keeps s (modeInitChain m s) fun r => m != .ecb && inReg .chain r := by
  cases m with
  | ecb => exact keeps_refl s _
  | cbc => exact keeps_putBlock s .chain _
  | ofb => exact keeps_putBlock s .chain _
  | ctr => exact keeps_putBlock s .chain _

theorem keeps_modeInitEffect (m : Mode) (d : Dir) (f : BlockOp) (s : State) (op : BitVec 2) :
    keeps s (modeInitEffect m d f s) (writesByR30 (.modeInit m d op) s) :=
  keeps_mono (keeps_trans (keeps_modeInitChain m s) (keeps_context _ m d f)) fun r h => by
    simp only [writesByR30]
    grind

/-- STATE, DOUT and DOUT_LEN: what a block command writes (43_block_engine.md R137, R138). -/
theorem keeps_blockResult (s : State) (y : Block) :
    keeps s (s.blockResult y) fun r => inReg .state r || inReg .dout r || r == .len :=
  keeps_mono (keeps_trans (keeps_putBlock s .state y) (keeps_putOutput _ y 16)) fun r h => by grind

/-- STATE, DOUT, DOUT_LEN and BLKIDX: what MODE_BLOCK writes in every mode (44_modes.md R160). -/
theorem keeps_modeResult (s : State) (y out : Block) :
    keeps s (s.modeResult y out) fun r => inReg .state r || inReg .dout r || r == .len || inBlkIdx r :=
  keeps_mono (keeps_trans (keeps_trans (keeps_putBlock s .state y) (keeps_putOutput _ out s.dinLen))
    (keeps_blkIdx _ _)) fun r h => by grind

/-- The same with CHAIN, which CBC and OFB write (R164 to R166). -/
theorem keeps_modeResult_chain (s : State) (y out c : Block) :
    keeps s ((s.modeResult y out).putBlock .chain c) fun r =>
      (inReg .state r || inReg .dout r || r == .len || inBlkIdx r) || inReg .chain r :=
  keeps_trans (keeps_modeResult s y out) (keeps_putBlock _ .chain c)

theorem keeps_modeBlockEffect (s : State) : keeps s (modeBlockEffect s) (writesByR30 .modeBlock s) := by
  unfold modeBlockEffect
  split
  case h_1 hm => exact keeps_mono (keeps_modeResult s _ _) fun r h => by simp_all [writesByR30]
  case h_2 hm hd => exact keeps_mono (keeps_modeResult_chain s _ _ _) fun r h => by simp_all [writesByR30]
  case h_3 hm hd => exact keeps_mono (keeps_modeResult_chain s _ _ _) fun r h => by simp_all [writesByR30]
  case h_4 hm => exact keeps_mono (keeps_modeResult_chain s _ _ _) fun r h => by simp_all [writesByR30]
  case h_5 hm => exact keeps_mono (keeps_modeResult s _ _) fun r h => by simp_all [writesByR30]

/-! ### The frame of a command -/

/-- The effect of every command is within its row of R30. -/
theorem keeps_effectOf (i : Instr) (s : State) : keeps s (effectOf i s) (writesByR30 i s) := by
  cases i with
  | encryptBlock => exact keeps_blockResult s _
  | decryptBlock => exact keeps_blockResult s _
  | gfMul a b => exact keeps_gfr s _
  | sboxRead a => exact keeps_gfr s _
  | invSboxRead a => exact keeps_gfr s _
  | keyExpand => exact keeps_trans (keeps_putRoundKeys s _) (keeps_rkCount _ 11)
  | modeInit m d op =>
    simp only [effectOf]
    cases blockOpOfBits op with
    | none => exact keeps_refl s _
    | some f => exact keeps_modeInitEffect m d f s op
  | modeBlock => exact keeps_modeBlockEffect s
  | softReset => exact keeps_clearControl s
  | _ => exact keeps_mapState s _

/-- DOUT_LEN is the only field of LEN a command other than SOFT_RESET writes (R24, R30). -/
theorem keepsLengths_effectOf {i : Instr} (s : State) (hi : i ≠ .softReset) :
    keepsLengths s (effectOf i s) := by
  unfold keepsLengths
  cases i with
  | softReset => exact absurd rfl hi
  | modeInit m d op =>
    simp only [effectOf]
    cases blockOpOfBits op with
    | none => exact ⟨rfl, rfl, rfl⟩
    | some f => cases m <;> simp [modeInitEffect, modeInitChain]
  | modeBlock =>
    simp only [effectOf, modeBlockEffect]
    split <;> simp [ecbBlock, cbcEncBlock, cbcDecBlock, ofbBlock, ctrBlock, State.modeResult]
  | _ => simp [effectOf, State.mapState, State.blockResult]

/-- Settles O51: what is left of `exec` is to say which of its three ways the command went. -/
theorem commandsWriteOnlyTheirRow : Obligations.CommandsWriteOnlyTheirRow := by
  intro i s t ht
  obtain ⟨hi, hs, e⟩ | ⟨hi, hs, c, hc, e⟩ | ⟨hrun, hc, e⟩ := exec_cases i s <;>
    obtain rfl := Host.Outcome.next.inj (e.symm.trans ht)
  case inl =>
    exact ⟨fun h => absurd h (not_or.2 ⟨hs, hi⟩), fun h => absurd h hs, fun _ _ => rfl⟩
  case inr.inl =>
    exact ⟨fun _ h => absurd h (causeCode_ne_zero c), fun _ _ => keeps_raise s _ c, fun h => absurd hs h⟩
  case inr.inr =>
    exact ⟨fun _ _ => ⟨keeps_effectOf i s, keepsLengths_effectOf s⟩,
      fun _ h => absurd (effectOf_err hc hrun) h, fun h hi => absurd hrun (not_or.2 ⟨h, hi⟩)⟩

end Sys2Proof.Statement
end

section
/-! SUPPORT. What one step does, by the host's next access (20_memory.md R44, R53). -/

namespace Sys2Proof.Machine

theorem step_of_nil {s : State} (h : s.pending = []) : step s = .next s := by
  simp [step, nextAccess, h]

theorem step_of_cons {s : State} {e : HostEvent} {rest : List HostEvent} (h : s.pending = e :: rest) :
    step s = hostEvent e { s with pending := rest } := by
  simp [step, nextAccess, h]

theorem runCommand_of_decode {cmd : Word} {i : Instr} (h : decode cmd = .command i) (s : State) :
    runCommand cmd s = exec i s := by
  simp [runCommand, h]

/-- A write of a word to CMD runs it (R44). -/
theorem hostEvent_commandWrite (cmd : Word) (s : State) :
    hostEvent (commandWrite cmd) s = andThen (runCommand cmd s) fun t => .next t.tick := rfl

/-- Settles O6: the pending command word is the write of CMD the step performs. -/
theorem stepRunsTheDecodedCommand : Obligations.StepRunsTheDecodedCommand := by
  refine ⟨fun s cmd rest i hp hd => ?_, fun s hp => step_of_nil hp⟩
  rw [step_of_cons hp, hostEvent_commandWrite, runCommand_of_decode hd]
  rfl

end Sys2Proof.Machine
end

section
/-! SUPPORT. The number of the draw (10_state.md R27) is seen by no register but where a word is unwritten. -/

namespace Sys2Proof.Machine

/-- The machine at another draw of the unwritten bytes. -/
def State.withDraws (s : State) (d : Nat) : State :=
  { s with draws := d }

@[simp] theorem State.withDraws_reg (s : State) (d : Nat) (r : DataReg) : (s.withDraws d).reg r = s.reg r := by
  cases r <;> rfl

@[simp] theorem State.withDraws_putBlock (s : State) (d : Nat) (r : DataReg) (b : Block) :
    (s.withDraws d).putBlock r b = (s.putBlock r b).withDraws d := by
  cases r <;> rfl

/-! ### Written words read the same at every draw -/

theorem contents_draw_irrel {w : DataWord} (h : w.written = true) (d d' off : Nat) :
    contents d off w = contents d' off w := by
  rw [contents_of_written d off h, contents_of_written d' off h]

theorem State.dataWord_withDraws {s : State} {r : DataReg} {j : Fin 4}
    (h : (quadGet (s.reg r) j).written = true) (d : Nat) :
    (s.withDraws d).dataWord r j = s.dataWord r j := by
  simp only [State.dataWord, State.withDraws_reg]
  exact contents_draw_irrel h _ _ _

theorem State.block_withDraws {s : State} {r : DataReg} (h : ∀ j, (quadGet (s.reg r) j).written = true)
    (d : Nat) : (s.withDraws d).block r = s.block r :=
  quad_ext fun j => by rw [quadGet_block, quadGet_block, State.dataWord_withDraws (h j)]

/-- A byte of a register is read from the word that holds it. -/
theorem State.byteAt_block_withDraws {s : State} {r : DataReg} {i : Nat}
    (h : (quadGet (s.reg r) (Fin.ofNat 4 (i / 4))).written = true) (d : Nat) :
    byteAt ((s.withDraws d).block r) i = byteAt (s.block r) i := by
  simp only [byteAt, cell, quadGet_block, State.dataWord_withDraws h]

theorem State.roundWord_withDraws {s : State} {i : Fin 44} (h : s.w[i].written = true) (d : Nat) :
    (s.withDraws d).roundWord i = s.roundWord i :=
  contents_draw_irrel h _ _ _

end Sys2Proof.Machine
end

section
/-! SUPPORT. The words a command consumes (Safety.lean) are the words its operands are read from. -/

namespace Sys2Proof.Machine

/-- Every word of a list has been written since reset. -/
def AllWritten (l : List DataWord) : Prop :=
  ∀ w ∈ l, w.written = true

@[simp] theorem allWritten_append (k l : List DataWord) : AllWritten (k ++ l) ↔ AllWritten k ∧ AllWritten l :=
  List.forall_mem_append

theorem quadGet_mem_firstWords (q : Quad DataWord) (n : Nat) (j : Fin 4) (h : j.val < n) :
    quadGet q j ∈ firstWords q n := by
  have hj : j.val < (firstWords q n).length := by simp [firstWords]; omega
  have e : (firstWords q n)[j.val] = quadGet q j := by
    simp only [firstWords, List.getElem_take]
    revert j
    exact forall_fin_four (fun _ _ => rfl) (fun _ _ => rfl) (fun _ _ => rfl) (fun _ _ => rfl)
  exact e ▸ List.getElem_mem hj

/-- A register that is consumed whole is written whole. -/
theorem written_of_firstWords {q : Quad DataWord} (h : AllWritten (firstWords q 4)) (j : Fin 4) :
    (quadGet q j).written = true :=
  h _ (quadGet_mem_firstWords q 4 j j.isLt)

/-- The word of each of the first `n` bytes is among the words that hold them. -/
theorem written_of_wordsOfBytes {q : Quad DataWord} {n i : Nat} (h : AllWritten (wordsOfBytes q n))
    (hi : i < n) (hi' : i < 16) : (quadGet q (Fin.ofNat 4 (i / 4))).written = true :=
  h _ (quadGet_mem_firstWords q _ _ (by simp only [Fin.ofNat]; omega))

theorem State.block_withDraws_of_firstWords {s : State} {r : DataReg} (h : AllWritten (firstWords (s.reg r) 4))
    (d : Nat) : (s.withDraws d).block r = s.block r :=
  State.block_withDraws (written_of_firstWords h) d

theorem State.byteAt_withDraws_of_wordsOfBytes {s : State} {r : DataReg} {n i : Nat}
    (h : AllWritten (wordsOfBytes (s.reg r) n)) (hi : i < n) (hi' : i < 16) (d : Nat) :
    byteAt ((s.withDraws d).block r) i = byteAt (s.block r) i :=
  State.byteAt_block_withDraws (written_of_wordsOfBytes h hi hi') d

/-- The four words of a round key are the words `roundKeyWords` names (R17). -/
theorem mem_roundKeyWords (s : State) {r k : Nat} (hr : r < 11) (hk : k < 4) :
    s.w[Fin.ofNat 44 (4 * r + k)] ∈ roundKeyWords s r := by
  have hl : k < (roundKeyWords s r).length := by simp [roundKeyWords]; omega
  have e : (roundKeyWords s r)[k] = s.w[Fin.ofNat 44 (4 * r + k)] := by
    have hm : (4 * r + k) % 44 = 4 * r + k := by omega
    simp [roundKeyWords, Fin.getElem_fin, hm]
  exact e ▸ List.getElem_mem hl

theorem State.roundKey_withDraws {s : State} {r : Nat} (hr : r < 11) (h : AllWritten (roundKeyWords s r))
    (d : Nat) : (s.withDraws d).roundKey r = s.roundKey r := by
  have word : ∀ k, k < 4 → (s.withDraws d).roundWord (Fin.ofNat 44 (4 * r + k))
      = s.roundWord (Fin.ofNat 44 (4 * r + k)) := fun k hk =>
    State.roundWord_withDraws (h _ (mem_roundKeyWords s hr hk)) d
  exact quad_ext (forall_fin_four (word 0 (by decide)) (word 1 (by decide)) (word 2 (by decide))
    (word 3 (by decide)))

theorem AllWritten.roundKeyWords {s : State} (h : AllWritten s.w.toList) (r : Nat) :
    AllWritten (roundKeyWords s r) :=
  fun w hw => h w (List.mem_of_mem_drop (List.mem_of_mem_take hw))

/-- All eleven round keys, where the whole file is consumed. -/
theorem State.roundKey_withDraws_of_file {s : State} (h : AllWritten s.w.toList) (d : Nat) :
    ∀ r, r < 11 → (s.withDraws d).roundKey r = s.roundKey r :=
  fun r hr => State.roundKey_withDraws hr (h.roundKeyWords r) d

end Sys2Proof.Machine
end

section
/-! SUPPORT. Which part of their operands the functions of a command read (43_block_engine.md,
44_modes.md). -/

namespace Sys2Proof.Machine

/-- A round reads the round key of its own index. -/
theorem encRound_congr {rk rk' : Nat → Block} {r : Nat} (h : rk r = rk' r) (b : Block) :
    encRound rk b r = encRound rk' b r := by
  by_cases h0 : r = 0
  · subst h0
    simp [encRound, h]
  · simp [encRound, h0, h]

theorem decRound_congr {rk rk' : Nat → Block} {r : Nat} (h : rk r = rk' r) (b : Block) :
    decRound rk b r = decRound rk' b r := by
  by_cases h0 : r = 0
  · subst h0
    simp [decRound, h]
  · simp [decRound, h0, h]

/-- The first bytes of a block's list are its first bytes. -/
theorem take_blockList_congr {p q : Block} {n : Nat} (hn : n ≤ 16)
    (h : ∀ i, i < n → byteAt p i = byteAt q i) : (blockList p).take n = (blockList q).take n := by
  refine List.ext_getElem (by simp) fun i hi _ => ?_
  have hin : i < n := by simp at hi; omega
  have hb : ∀ b : Block, (blockList b)[i]'(by simp; omega) = byteAt b i := fun b => by
    rw [← blockList_getD b i (by omega), List.getD_eq_getElem]
  rw [List.getElem_take, List.getElem_take, hb, hb, h i hin]

/-- The counter base reads the nonce's bytes only (R153, R154). -/
theorem counterBase_congr (order : NonceOrder) {p q : Block} {n : Nat} (hn : n ≤ 16)
    (h : ∀ i, i < n → byteAt p i = byteAt q i) : counterBase order p n = counterBase order q n := by
  cases order <;> simp only [counterBase, take_blockList_congr hn h]

/-- The output of a stream mode reads the first bytes of the data only (R162). -/
theorem xorPrefix_congr {p q : Block} (k : Block) {n : Nat}
    (h : ∀ i, i < n → i < 16 → byteAt p i = byteAt q i) : xorPrefix p k n = xorPrefix q k n := by
  refine block_ext_byteAt fun i hi => ?_
  simp only [xorPrefix, byteAt_blockOfBytes _ i hi]
  split
  case isTrue hlt => rw [h i hlt hi]
  case isFalse => rfl

end Sys2Proof.Machine
end

section
/-! SUPPORT. What a command that passes its checks knows (60_exceptions.md R215). -/

namespace Sys2Proof.Machine

/-- A command passes its checks exactly where none of them fails. -/
theorem firstError_eq_none_iff (l : List (Bool × Cause)) : firstError l = none ↔ ∀ p ∈ l, p.1 = false := by
  induction l with
  | nil => simp [firstError]
  | cons p rest ih =>
    obtain ⟨failed, c⟩ := p
    cases failed <;> simp [firstError, ih]

theorem roundChecks_none {rnd : BitVec 4} {s : State} (h : firstError (roundChecks rnd s) = none) :
    rnd.toNat < 11 := by
  simp only [firstError_eq_none_iff, roundChecks, badRoundIndex] at h
  have := h _ List.mem_cons_self
  simp at this
  omega

/-- The nonce of a CTR context has at most 16 bytes (44_modes.md R153). -/
theorem modeInitChecks_ctr_none {s : State} (h : firstError (modeInitChecks .ctr s) = none) :
    s.ivLen.toNat ≤ 16 := by
  simpa [firstError_eq_none_iff, modeInitChecks] using h

theorem modeBlockChecks_none {s : State} (h : firstError (modeBlockChecks s) = none) :
    badModeLength s.mode s.dinLen = false := by
  simp only [firstError_eq_none_iff, modeBlockChecks] at h
  exact h _ (List.mem_cons_of_mem _ List.mem_cons_self)

/-- In a block mode MODE_BLOCK takes whole blocks (44_modes.md R160, R161). -/
theorem dinLen_of_blockMode {s : State} (h : firstError (modeBlockChecks s) = none)
    (hm : s.mode = .ecb ∨ s.mode = .cbc) : s.dinLen = 16 := by
  have hlen := modeBlockChecks_none h
  obtain hm | hm := hm <;> simpa [badModeLength, hm] using hlen

/-- In a stream mode MODE_BLOCK takes at most a block (R160, R161). -/
theorem dinLen_of_streamMode {s : State} (h : firstError (modeBlockChecks s) = none)
    (hm : s.mode = .ofb ∨ s.mode = .ctr) : s.dinLen.toNat ≤ 16 := by
  have hlen := modeBlockChecks_none h
  have hor : s.dinLen ≠ 0 ∧ s.dinLen.toNat ≤ 16 := by
    obtain hm | hm := hm <;> simpa [badModeLength, hm] using hlen
  exact hor.2

end Sys2Proof.Machine
end

section
/-! SUPPORT. The effect of a command is the same at every draw where it consumes only written words
(10_state.md R27, 60_exceptions.md R219). -/

namespace Sys2Proof.Machine

@[simp] theorem State.withDraws_mode (s : State) (d : Nat) : (s.withDraws d).mode = s.mode := rfl
@[simp] theorem State.withDraws_dir (s : State) (d : Nat) : (s.withDraws d).dir = s.dir := rfl
@[simp] theorem State.withDraws_op (s : State) (d : Nat) : (s.withDraws d).op = s.op := rfl
@[simp] theorem State.withDraws_dinLen (s : State) (d : Nat) : (s.withDraws d).dinLen = s.dinLen := rfl
@[simp] theorem State.withDraws_ivLen (s : State) (d : Nat) : (s.withDraws d).ivLen = s.ivLen := rfl
@[simp] theorem State.withDraws_blkIdx (s : State) (d : Nat) : (s.withDraws d).blkIdx = s.blkIdx := rfl

@[simp] theorem State.withDraws_blockResult (s : State) (d : Nat) (y : Block) :
    (s.withDraws d).blockResult y = (s.blockResult y).withDraws d := rfl

@[simp] theorem State.withDraws_modeResult (s : State) (d : Nat) (y out : Block) :
    (s.withDraws d).modeResult y out = (s.modeResult y out).withDraws d := rfl

/-- The checks of a command read no data register. -/
theorem checksOf_withDraws (i : Instr) (s : State) (d : Nat) : checksOf i (s.withDraws d) = checksOf i s := by
  cases i with
  | modeInit m dir op => cases m <;> rfl
  | _ => rfl

theorem mapState_withDraws {s : State} {f g : Block → Block} (h : AllWritten (firstWords s.stateReg 4))
    (hfg : ∀ b, f b = g b) (d : Nat) : (s.withDraws d).mapState f = (s.mapState g).withDraws d := by
  simp only [State.mapState, State.block_withDraws_of_firstWords (r := .state) h, hfg,
    State.withDraws_putBlock]

theorem modeInitChain_withDraws {m : Mode} {s : State} (hc : firstError (modeInitChecks m s) = none)
    (hw : AllWritten (modeInitConsumes m s)) (d : Nat) :
    modeInitChain m (s.withDraws d) = (modeInitChain m s).withDraws d := by
  cases m with
  | ecb => rfl
  | cbc => simp only [modeInitChain, State.block_withDraws_of_firstWords (r := .iv) hw, State.withDraws_putBlock]
  | ofb => simp only [modeInitChain, State.block_withDraws_of_firstWords (r := .iv) hw, State.withDraws_putBlock]
  | ctr =>
    have hn := modeInitChecks_ctr_none hc
    have hbase : counterBase Config.ctrNonceOrder ((s.withDraws d).block .iv) s.ivLen.toNat
        = counterBase Config.ctrNonceOrder (s.block .iv) s.ivLen.toNat :=
      counterBase_congr _ hn fun i hi =>
        State.byteAt_withDraws_of_wordsOfBytes (r := .iv) hw hi (by omega) d
    simp only [modeInitChain, State.withDraws_ivLen, hbase, State.withDraws_putBlock]

theorem modeInitEffect_withDraws {m : Mode} {s : State} (dir : Dir) (f : BlockOp)
    (hc : firstError (modeInitChecks m s) = none) (hw : AllWritten (modeInitConsumes m s)) (d : Nat) :
    modeInitEffect m dir f (s.withDraws d) = (modeInitEffect m dir f s).withDraws d := by
  simp only [modeInitEffect, modeInitChain_withDraws hc hw]
  rfl

/-- OPERATE reads the round-key file unless it is the identity (44_modes.md R151). -/
theorem operate_withDraws {s : State} {f : BlockOp} (h : f ≠ .ident → AllWritten s.w.toList) (d : Nat)
    (x : Block) : operate f (s.withDraws d).roundKey x = operate f s.roundKey x := by
  by_cases hf : f = .ident
  · subst hf
    rfl
  · exact operate_congr f (State.roundKey_withDraws_of_file (h hf) d) x

/-- MODE_BLOCK reads DIN whole in the block modes and its first DIN_LEN bytes in the stream modes, and
CHAIN in every mode but ECB (R160). -/
theorem modeBlockEffect_withDraws {s : State} (hc : firstError (modeBlockChecks s) = none)
    (hw : AllWritten (modeBlockConsumes s)) (d : Nat) :
    modeBlockEffect (s.withDraws d) = (modeBlockEffect s).withDraws d := by
  simp only [modeBlockConsumes, allWritten_append] at hw
  obtain ⟨⟨hdin, hchain⟩, hkeys⟩ := hw
  have hop : ∀ x, operate s.op (s.withDraws d).roundKey x = operate s.op s.roundKey x :=
    operate_withDraws (fun hf => by rwa [if_neg hf] at hkeys) d
  have chain (hm : s.mode ≠ .ecb) : (s.withDraws d).block .chain = s.block .chain :=
    State.block_withDraws_of_firstWords (r := .chain) (by rwa [if_neg hm] at hchain) d
  have din (hm : s.mode = .ecb ∨ s.mode = .cbc) : (s.withDraws d).block .din = s.block .din :=
    State.block_withDraws_of_firstWords (r := .din) (by rw [dinLen_of_blockMode hc hm] at hdin; exact hdin) d
  have pre (k : Block) : xorPrefix ((s.withDraws d).block .din) k s.dinLen.toNat
      = xorPrefix (s.block .din) k s.dinLen.toNat :=
    xorPrefix_congr k fun i hi hi' => State.byteAt_withDraws_of_wordsOfBytes (r := .din) hdin hi hi' d
  simp only [modeBlockEffect, State.withDraws_mode, State.withDraws_dir]
  split
  case h_1 hm => simp [ecbBlock, din (.inl hm), hop]
  case h_2 hm _ => simp [cbcEncBlock, din (.inr hm), chain (by simp [hm]), hop]
  case h_3 hm _ => simp [cbcDecBlock, din (.inr hm), chain (by simp [hm]), hop]
  case h_4 hm => simp [ofbBlock, pre, chain (by simp [hm]), hop]
  case h_5 hm => simp [ctrBlock, pre, chain (by simp [hm]), hop]

theorem effectOf_withDraws {i : Instr} {s : State} (hc : firstError (checksOf i s) = none)
    (hw : AllWritten (consumes i s)) (d : Nat) :
    effectOf i (s.withDraws d) = (effectOf i s).withDraws d := by
  cases i with
  | addRoundKey rnd =>
    obtain ⟨hs, hk⟩ := (allWritten_append _ _).1 hw
    exact mapState_withDraws hs
      (fun b => congrArg (addRoundKey b) (State.roundKey_withDraws (roundChecks_none hc) hk d)) d
  | encRound rnd =>
    obtain ⟨hs, hk⟩ := (allWritten_append _ _).1 hw
    exact mapState_withDraws hs
      (encRound_congr (State.roundKey_withDraws (roundChecks_none hc) hk d)) d
  | decRound rnd =>
    obtain ⟨hs, hk⟩ := (allWritten_append _ _).1 hw
    exact mapState_withDraws hs
      (decRound_congr (State.roundKey_withDraws (roundChecks_none hc) hk d)) d
  | encryptBlock =>
    obtain ⟨hd, hk⟩ := (allWritten_append _ _).1 hw
    simp only [effectOf, State.block_withDraws_of_firstWords (r := .din) hd,
      cipher_congr (State.roundKey_withDraws_of_file hk d), State.withDraws_blockResult]
  | decryptBlock =>
    obtain ⟨hd, hk⟩ := (allWritten_append _ _).1 hw
    simp only [effectOf, State.block_withDraws_of_firstWords (r := .din) hd,
      invCipher_congr (State.roundKey_withDraws_of_file hk d), State.withDraws_blockResult]
  | keyExpand =>
    simp only [effectOf, State.block_withDraws_of_firstWords (r := .key) hw]
    rfl
  | modeInit m dir op =>
    simp only [checksOf] at hc
    simp only [effectOf]
    cases hop : blockOpOfBits op with
    | none => rfl
    | some f => exact modeInitEffect_withDraws dir f (by simpa only [hop] using hc) hw d
  | modeBlock => exact modeBlockEffect_withDraws hc hw d
  | gfMul a b => rfl
  | sboxRead a => rfl
  | invSboxRead a => rfl
  | softReset => rfl
  | _ => exact mapState_withDraws hw (fun _ => rfl) d

/-- A command that runs consumes written words only, or has the spec's `unwritten` outcome (R215, R219). -/
theorem allWritten_consumes {i : Instr} {s : State} (h : consumesUnwritten i s = false)
    (hrun : s.err = 0 ∨ i = .softReset) (hc : firstError (checksOf i s) = none) :
    AllWritten (consumes i s) := by
  by_cases hi : i = .softReset
  · subst hi
    exact List.forall_mem_nil _
  · have hs : s.err = 0 := hrun.resolve_right hi
    have hr : runs i s = true := by
      simp [runs, exec_runs hs hc, errorPending, hs, effectOf_err hc hrun]
    simpa [consumesUnwritten, hr, AllWritten] using h

/-- Settles O55: of the three ways a command can go, only its effect reads data, and it reads what the
command consumes. -/
theorem unwrittenBytesDoNotLeak : Obligations.UnwrittenBytesDoNotLeak := by
  intro i s d h
  change exec i (s.withDraws d) = andThen (exec i s) fun t => .next (t.withDraws d)
  obtain ⟨hi, hs, e⟩ | ⟨hi, hs, c, hc, e⟩ | ⟨hrun, hc, e⟩ := exec_cases i s <;> rw [e, andThen_next]
  case inl => exact exec_dropped hs hi
  case inr.inl =>
    rw [← checksOf_withDraws i s d] at hc
    exact exec_fails hs hc
  case inr.inr =>
    rw [← effectOf_withDraws hc (allWritten_consumes h hrun hc)]
    rw [← checksOf_withDraws i s d] at hc
    obtain hs | rfl := hrun
    · exact exec_runs hs hc
    · rfl

end Sys2Proof.Machine
end

section
/-! SUPPORT. The invariant of Safety.lean as propositions, and the registers it reads. -/

namespace Sys2Proof.Statement

open Sys2Proof Sys2Proof.Machine

/-- DOUT holds `len` bytes: every word is written, and it is 0x00 from byte `len` on (10_state.md R16). -/
def holdsOutput (s : State) (len : Byte) : Prop :=
  len.toNat ≤ 16 ∧ (∀ j, (quadGet (s.reg .dout) j).written = true) ∧
    ∀ j, j < 16 → len.toNat ≤ j → byteAt (s.block .dout) j = 0

theorem allWritten_firstWords_iff (q : Quad DataWord) :
    AllWritten (firstWords q 4) ↔ ∀ j, (quadGet q j).written = true := by
  refine ⟨written_of_firstWords, fun h => ?_⟩
  have h0 := h 0
  have h1 := h 1
  have h2 := h 2
  have h3 := h 3
  simp_all [AllWritten, firstWords]

theorem doutZeroAt_iff {s : State} (h : ∀ j, (quadGet (s.reg .dout) j).written = true) (j : Nat) :
    doutZeroAt s j = true ↔ byteAt (s.block .dout) j = 0 := by
  have := h (Fin.ofNat 4 (j / 4))
  simp_all [doutZeroAt, State.reg]

theorem outputShaped_iff (s : State) :
    outputShaped s = true ↔ s.doutLen = 0 ∨ holdsOutput s s.doutLen := by
  have hw : (∀ w ∈ firstWords s.dout 4, w.written = true)
      ↔ ∀ j, (quadGet (s.reg .dout) j).written = true := allWritten_firstWords_iff s.dout
  simp only [outputShaped, holdsOutput, Bool.or_eq_true, Bool.and_eq_true, beq_iff_eq, decide_eq_true_eq,
    List.all_eq_true, List.mem_range, and_assoc, hw]
  refine or_congr_right (and_congr_right fun _ => and_congr_right fun hall => ?_)
  refine forall₂_congr fun j _ => ?_
  rw [doutZeroAt_iff hall, or_iff_not_imp_left, not_lt]

/-! ### Each part reads one register, and no draw -/

theorem statusListed_of_sameReg {s t : State} (h : statusListed s = true) (hr : sameReg s t .status) :
    statusListed t = true := by
  obtain ⟨he, ho, hi⟩ := hr
  simpa only [statusListed, he, ho, hi] using h

theorem contextCleared_of_sameReg {s t : State} (h : contextCleared s = true) (hr : sameReg s t .ctrl) :
    contextCleared t = true := by
  obtain ⟨hm, hd, ho, ha⟩ := hr
  simpa only [contextCleared, hm, hd, ho, ha] using h

theorem outputShaped_of_same {s t : State} (h : outputShaped s = true) (hl : t.doutLen = s.doutLen)
    (hd : t.reg .dout = s.reg .dout) : outputShaped t = true := by
  rw [outputShaped_iff] at h ⊢
  rw [hl]
  obtain h0 | ⟨hle, hw, hz⟩ := h
  · exact .inl h0
  · have hb : t.block .dout = s.block .dout := calc
      t.block .dout = (s.withDraws t.draws).block .dout :=
        State.block_congr (hd.trans (State.withDraws_reg s _ _).symm) rfl
      _ = s.block .dout := State.block_withDraws hw _
    exact .inr ⟨hle, by rwa [hd], by rwa [hb]⟩

/-- A written DOUT of at most 16 bytes, 0x00 after them, has the shape R16 gives it. -/
theorem outputShaped_of_output {t : State} {out : Block} (hd : t.reg .dout = quadMap present out)
    (hle : t.doutLen.toNat ≤ 16) (hz : ∀ j, j < 16 → t.doutLen.toNat ≤ j → byteAt out j = 0) :
    outputShaped t = true := by
  obtain ⟨hw, hb⟩ := holds_of_reg hd
  exact (outputShaped_iff t).2 (.inr ⟨hle, hw, by rwa [hb]⟩)

/-- What leaves STATUS, CTRL, DOUT and DOUT_LEN keeps the invariant. -/
theorem inv_of_same {s t : State} (h : s.Inv) (hst : sameReg s t .status) (hct : sameReg s t .ctrl)
    (hl : t.doutLen = s.doutLen) (hd : t.reg .dout = s.reg .dout) : t.Inv := by
  obtain ⟨h1, h2, h3⟩ := h
  exact ⟨statusListed_of_sameReg h1 hst, contextCleared_of_sameReg h2 hct, outputShaped_of_same h3 hl hd⟩

end Sys2Proof.Statement
end

section
/-! SUPPORT. Every command, every host write and the reset keep the invariant. -/

namespace Sys2Proof.Statement

open Sys2Proof Sys2Proof.Machine

theorem inv_clearControl (s : State) : s.clearControl.Inv :=
  ⟨rfl, rfl, rfl⟩

theorem inv_hardReset (s : State) : (hardReset s).Inv :=
  ⟨rfl, rfl, rfl⟩

theorem statusListed_raise (s : State) (o : BitVec 6) (c : Cause) : statusListed (s.raise o c) = true := by
  have h := cause_listed c
  have hne := causeCode_ne_zero c
  rw [statusListed, Bool.and_eq_true, Bool.or_eq_true]
  exact ⟨List.contains_iff_mem.2 h, .inl (bne_iff_ne.2 hne)⟩

theorem inv_raise {s : State} (h : s.Inv) (o : BitVec 6) (c : Cause) : (s.raise o c).Inv := by
  obtain ⟨_, h2, h3⟩ := h
  exact ⟨statusListed_raise s o c, h2, outputShaped_of_same h3 rfl rfl⟩

theorem inv_clearError {s : State} (h : s.Inv) : s.clearError.Inv := by
  obtain ⟨_, h2, h3⟩ := h
  exact ⟨rfl, h2, outputShaped_of_same h3 rfl rfl⟩

/-! ### The effect of a command -/

theorem statusListed_effectOf {i : Instr} {s : State} (h : statusListed s = true) :
    statusListed (effectOf i s) = true := by
  by_cases hi : i = .softReset
  · subst hi
    rfl
  · have hr : writesByR30 i s .status = false := by
      cases i <;> simp_all [writesByR30, inReg, inBlkIdx, inRoundKeys]
    exact statusListed_of_sameReg h ((keeps_effectOf i s).2 _ hr).1

/-- MODE_INIT sets ACTIVE, SOFT_RESET clears CTRL, and no other command writes it (R22, R30). -/
theorem contextCleared_effectOf {i : Instr} {s : State} (h : contextCleared s = true) :
    contextCleared (effectOf i s) = true := by
  by_cases hr : writesByR30 i s .ctrl = false
  · exact contextCleared_of_sameReg h ((keeps_effectOf i s).2 _ hr).1
  · cases i with
    | modeInit m d op =>
      simp only [effectOf]
      cases blockOpOfBits op with
      | none => exact h
      | some f => rfl
    | softReset => rfl
    | _ => simp [writesByR30, inReg, inBlkIdx, inRoundKeys] at hr

/-- A whole block is an output: there is no byte after it. -/
theorem outputShaped_of_whole {t : State} {out : Block} (hd : t.reg .dout = quadMap present out)
    (hl : t.doutLen = 16) : outputShaped t = true := by
  have hn : t.doutLen.toNat = 16 := by rw [hl]; rfl
  exact outputShaped_of_output hd hn.le fun j hj hle => by omega

theorem byteAt_xorPrefix_of_le (p k : Block) {n j : Nat} (hj : j < 16) (hle : n ≤ j) :
    byteAt (xorPrefix p k n) j = 0 := by
  rw [xorPrefix, byteAt_blockOfBytes _ j hj, if_neg (not_lt.2 hle)]

/-- In a stream mode the output is 0x00 after DIN_LEN bytes (44_modes.md R162). -/
theorem outputShaped_modeResult_of_prefix {s : State} (hl : s.dinLen.toNat ≤ 16) (y p k : Block) :
    outputShaped (s.modeResult y (xorPrefix p k s.dinLen.toNat)) = true :=
  outputShaped_of_output rfl hl fun _ hj hle => byteAt_xorPrefix_of_le p k hj hle

theorem outputShaped_putChain {s : State} (h : outputShaped s = true) (c : Block) :
    outputShaped (s.putBlock .chain c) = true :=
  outputShaped_of_same h rfl rfl

theorem outputShaped_modeBlockEffect {s : State} (hc : firstError (modeBlockChecks s) = none) :
    outputShaped (modeBlockEffect s) = true := by
  have whole := dinLen_of_blockMode hc
  have part := dinLen_of_streamMode hc
  unfold modeBlockEffect
  split
  case h_1 hm => exact outputShaped_of_whole rfl (whole (.inl hm))
  case h_2 hm _ => exact outputShaped_of_whole rfl (whole (.inr hm))
  case h_3 hm _ => exact outputShaped_of_whole rfl (whole (.inr hm))
  case h_4 hm => exact outputShaped_putChain (outputShaped_modeResult_of_prefix (part (.inl hm)) _ _ _) _
  case h_5 hm => exact outputShaped_modeResult_of_prefix (part (.inr hm)) _ _ _

/-- A frame that leaves LEN and DOUT leaves the output. -/
theorem outputShaped_of_keeps {s t : State} {written : WindowReg → Bool} (h : outputShaped s = true)
    (hk : keeps s t written) (hl : written .len = false) (hd : ∀ j, written (.data .dout j) = false) :
    outputShaped t = true := by
  obtain ⟨-, hr⟩ := hk
  obtain ⟨-, -, -, hlen⟩ := (hr _ hl).1
  exact outputShaped_of_same h hlen (quad_ext fun j => (hr _ (hd j)).1)

/-- The block commands and MODE_BLOCK write DOUT with DOUT_LEN, and SOFT_RESET clears DOUT_LEN; no other
command writes either (R16, R30). -/
theorem outputShaped_effectOf {i : Instr} {s : State} (h : outputShaped s = true)
    (hc : firstError (checksOf i s) = none) : outputShaped (effectOf i s) = true := by
  cases i with
  | encryptBlock => exact outputShaped_of_whole rfl rfl
  | decryptBlock => exact outputShaped_of_whole rfl rfl
  | modeBlock => exact outputShaped_modeBlockEffect hc
  | softReset => rfl
  | modeInit m d op =>
    exact outputShaped_of_keeps h (keeps_effectOf _ s) (by simp [writesByR30, inReg, inBlkIdx])
      fun j => by simp [writesByR30, inReg, inBlkIdx]
  | _ => exact outputShaped_of_keeps h (keeps_effectOf _ s) rfl fun _ => rfl

theorem inv_effectOf {i : Instr} {s : State} (h : s.Inv) (hc : firstError (checksOf i s) = none) :
    (effectOf i s).Inv := by
  obtain ⟨h1, h2, h3⟩ := h
  exact ⟨statusListed_effectOf h1, contextCleared_effectOf h2, outputShaped_effectOf h3 hc⟩

/-! ### Commands, host accesses and steps -/

theorem inv_exec {i : Instr} {s t : State} (h : s.Inv) (ht : exec i s = .next t) : t.Inv := by
  obtain ⟨_, _, e⟩ | ⟨_, _, c, _, e⟩ | ⟨_, hc, e⟩ := exec_cases i s <;>
    obtain rfl := Host.Outcome.next.inj (e.symm.trans ht)
  case inl => exact h
  case inr.inl => exact inv_raise h _ c
  case inr.inr => exact inv_effectOf h hc

theorem inv_illegalCommand {opc : BitVec 6} {k : IllegalKind} {s t : State} (h : s.Inv)
    (ht : illegalCommand opc k s = .next t) : t.Inv := by
  obtain ⟨_, e⟩ | ⟨_, e⟩ := illegalCommand_cases opc k s <;>
    obtain rfl := Host.Outcome.next.inj (e.symm.trans ht)
  case inl => exact h
  case inr => exact inv_raise h _ _

theorem inv_runCommand {cmd : Word} {s t : State} (h : s.Inv) (ht : runCommand cmd s = .next t) : t.Inv := by
  unfold runCommand at ht
  cases hd : decode cmd with
  | command i =>
    rw [hd] at ht
    exact inv_exec h ht
  | illegal k =>
    rw [hd] at ht
    exact inv_illegalCommand h ht

theorem inv_writeStatus {s : State} (h : s.Inv) (v : Word) : (writeStatus v s).Inv := by
  unfold writeStatus
  split
  · exact inv_clearError h
  · exact h

/-- DOUT is read-only for the host (10_state.md R16). -/
theorem inv_writeData {s : State} (h : s.Inv) (r : DataReg) (j : Fin 4) (v : Word) :
    (writeData r j v s).Inv := by
  cases r with
  | dout => exact h
  | _ => exact inv_of_same h ⟨rfl, rfl, rfl⟩ ⟨rfl, rfl, rfl, rfl⟩ rfl rfl

theorem inv_writeReg {r : WindowReg} {v : Word} {s t : State} (h : s.Inv) (ht : writeReg r v s = .next t) :
    t.Inv := by
  cases r with
  | cmd => exact inv_runCommand h ht
  | status =>
    cases ht
    exact inv_writeStatus h v
  | ctrl =>
    cases ht
    exact h
  | gfr =>
    cases ht
    exact h
  | data r j =>
    cases ht
    exact inv_writeData h r j v
  | _ =>
    cases ht
    exact inv_of_same h ⟨rfl, rfl, rfl⟩ ⟨rfl, rfl, rfl, rfl⟩ rfl rfl

theorem inv_tick {s : State} (h : s.Inv) : s.tick.Inv :=
  inv_of_same h ⟨rfl, rfl, rfl⟩ ⟨rfl, rfl, rfl, rfl⟩ rfl rfl

/-- A host read records the word it returns, and changes no register (20_memory.md R46). -/
theorem inv_busRead {off : Nat} {s t : State} (h : s.Inv) (ht : busRead off s = .next t) : t.Inv := by
  cases hr : windowReg off with
  | none => simp [busRead, hr] at ht
  | some r =>
    rw [busRead_of_mapped hr] at ht
    cases ht
    exact inv_of_same h ⟨rfl, rfl, rfl⟩ ⟨rfl, rfl, rfl, rfl⟩ rfl rfl

theorem inv_busWrite {off : Nat} {v : Word} {s t : State} (h : s.Inv) (ht : busWrite off v s = .next t) :
    t.Inv := by
  cases hr : windowReg off with
  | none => simp [busWrite, hr] at ht
  | some r =>
    rw [busWrite_of_mapped hr] at ht
    exact inv_writeReg h ht

theorem inv_hostEvent {e : HostEvent} {s t : State} (h : s.Inv) (ht : hostEvent e s = .next t) : t.Inv := by
  cases e with
  | read width off =>
    cases width with
    | bits32 =>
      obtain ⟨u, hu, hut⟩ := andThen_eq_next.1 ht
      cases hut
      exact inv_tick (inv_busRead h hu)
    | bits8 => cases ht
    | bits16 => cases ht
  | write width off v =>
    cases width with
    | bits32 =>
      obtain ⟨u, hu, hut⟩ := andThen_eq_next.1 ht
      cases hut
      exact inv_tick (inv_busWrite h hu)
    | bits8 => cases ht
    | bits16 => cases ht
  | reset =>
    cases ht
    exact inv_tick (inv_hardReset s)

/-- Settles O54: a step is the first pending access or nothing. -/
theorem everyStepKeepsTheInvariant : Obligations.EveryStepKeepsTheInvariant := by
  intro s t h ht
  cases hp : s.pending with
  | nil =>
    rw [step_of_nil hp] at ht
    cases ht
    exact h
  | cons e rest =>
    rw [step_of_cons hp] at ht
    exact inv_hostEvent (s := { s with pending := rest })
      (inv_of_same h ⟨rfl, rfl, rfl⟩ ⟨rfl, rfl, rfl, rfl⟩ rfl rfl) ht

end Sys2Proof.Statement
end

section
/-! SUPPORT. The map of the register window (20_memory.md R40 to R43) and its inverse. -/

namespace Sys2Proof.Statement

open Sys2Proof Sys2Proof.Machine

/-- The window map finds each register at its own offset. -/
@[simp] theorem windowReg_windowOffset (r : WindowReg) : windowReg (windowOffset r) = some r := by
  cases r with
  | data r j =>
    revert j
    cases r <;> exact forall_fin_four rfl rfl rfl rfl
  | blkIdx j =>
    revert j
    exact forall_fin_four rfl rfl rfl rfl
  | roundWord i =>
    revert i
    decide
  | _ => rfl

/-- At an offset R43 refuses, every test of the map fails, or the one before a reserved range ends it. -/
theorem windowReg_of_badAccess {off : Nat} (h : badAccess .bits32 off) : windowReg off = none := by
  by_cases ha : off % 4 ≠ 0
  · exact if_pos ha
  · obtain h | h | h : (0x018 ≤ off ∧ off < 0x020) ∨ (0x090 ≤ off ∧ off < 0x100) ∨ 0x1B0 ≤ off := by
      simpa [badAccess, ha] using h
    all_goals
      unfold windowReg
      repeat rw [if_neg (by omega)]
    · exact if_pos (by omega)
    · exact if_pos (by omega)

/-- A word of a 128-bit data register stands at each aligned offset of the register's 16 bytes. -/
theorem exists_windowOffset_data (d : DataReg) {off : Nat} (ha : off % 4 = 0)
    (h : regOffset d ≤ off ∧ off < regOffset d + 16) : ∃ r, windowOffset r = off := by
  have hd : regOffset d % 4 = 0 := by cases d <;> rfl
  refine ⟨.data d ⟨(off - regOffset d) / 4, by omega⟩, ?_⟩
  simp only [windowOffset]
  omega

/-- Every aligned offset that is not reserved is in a row of the map (R42). -/
theorem exists_windowOffset {off : Nat} (h : ¬ badAccess .bits32 off) : ∃ r, windowOffset r = off := by
  simp only [badAccess, not_or, ne_eq, not_true_eq_false, not_false_eq_true, not_not, true_and] at h
  obtain ⟨ha, h⟩ := h
  obtain rfl | rfl | rfl | rfl | rfl | rfl | h | h | h | h | h | h | h | h : off = 0x000 ∨ off = 0x004
      ∨ off = 0x008 ∨ off = 0x00C ∨ off = 0x010 ∨ off = 0x014
      ∨ (0x020 ≤ off ∧ off < 0x030) ∨ (0x030 ≤ off ∧ off < 0x040) ∨ (0x040 ≤ off ∧ off < 0x050)
      ∨ (0x050 ≤ off ∧ off < 0x060) ∨ (0x060 ≤ off ∧ off < 0x070) ∨ (0x070 ≤ off ∧ off < 0x080)
      ∨ (0x080 ≤ off ∧ off < 0x090) ∨ (0x100 ≤ off ∧ off < 0x1B0) := by omega
  · exact ⟨.cmd, rfl⟩
  · exact ⟨.status, rfl⟩
  · exact ⟨.len, rfl⟩
  · exact ⟨.ctrl, rfl⟩
  · exact ⟨.rkcnt, rfl⟩
  · exact ⟨.gfr, rfl⟩
  · exact exists_windowOffset_data .state ha h
  · exact exists_windowOffset_data .key ha h
  · exact exists_windowOffset_data .din ha h
  · exact exists_windowOffset_data .dout ha h
  · exact exists_windowOffset_data .iv ha h
  · exact exists_windowOffset_data .chain ha h
  · refine ⟨.blkIdx ⟨(off - 0x080) / 4, by omega⟩, ?_⟩
    simp only [windowOffset]
    omega
  · refine ⟨.roundWord ⟨(off - 0x100) / 4, by omega⟩, ?_⟩
    simp only [windowOffset]
    omega

theorem windowReg_eq_none_iff (off : Nat) : windowReg off = none ↔ badAccess .bits32 off := by
  refine ⟨fun h => ?_, windowReg_of_badAccess⟩
  by_contra hok
  obtain ⟨r, rfl⟩ := exists_windowOffset hok
  simp at h

/-- No register is found at another offset than its own: the offset has a register, and that is the one. -/
theorem windowReg_eq_some_iff (off : Nat) (r : WindowReg) : windowReg off = some r ↔ windowOffset r = off := by
  refine ⟨fun h => ?_, fun h => h ▸ windowReg_windowOffset r⟩
  have hok : ¬ badAccess .bits32 off := fun hbad => by simp [windowReg_of_badAccess hbad] at h
  obtain ⟨q, rfl⟩ := exists_windowOffset hok
  rw [windowReg_windowOffset, Option.some.injEq] at h
  rw [h]

theorem offsetOf_eq_some_iff (addr off : Nat) :
    offsetOf addr = some off ↔ addr = Config.base + off ∧ off < Config.windowSize := by
  unfold offsetOf
  split_ifs with h
  · rw [Option.some.injEq]
    omega
  · simp only [false_iff]
    omega

/-- Settles O12: the map and its inverse, the rows without a register, and where the window stands. -/
theorem windowMapIsExact : Obligations.WindowMapIsExact :=
  ⟨windowReg_eq_some_iff, windowReg_eq_none_iff, Nat.mul_mod_right _ _, offsetOf_eq_some_iff⟩

end Sys2Proof.Statement
end

section
/-! SUPPORT. Which host accesses the engine answers (20_memory.md R43), and so which steps fault. -/

namespace Sys2Proof.Statement

open Sys2Proof Sys2Proof.Machine

/-- The events R43 answers with a bus error: the bad accesses, never the reset. -/
def badEvent : HostEvent → Prop
  | .read width off => badAccess width off
  | .write width off _ => badAccess width off
  | .reset => False

/-- An access that is not bad is 32 bits wide, at a register of the window. -/
theorem windowOffset_of_not_badAccess {width : AccessWidth} {off : Nat} (h : ¬ badAccess width off) :
    width = .bits32 ∧ ∃ r, off = windowOffset r := by
  have hw : width = .bits32 := by
    by_contra hne
    exact h (.inl hne)
  subst hw
  obtain ⟨r, hr⟩ := exists_windowOffset h
  exact ⟨rfl, r, hr.symm⟩

/-- A read returns the register's word, and the next access draws afresh (R46, R53). -/
theorem hostEvent_rd (r : WindowReg) (s : State) :
    hostEvent (rd r) s = .next ({ s with observed := s.observed ++ [readReg s r] } : State).tick := by
  simp [rd, hostEvent, busRead_of_mapped (windowReg_windowOffset r)]

/-- A write does what the register's write does, and the next access draws afresh (R53). -/
theorem hostEvent_wr (r : WindowReg) (v : Word) (s : State) :
    hostEvent (wr r v) s = andThen (writeReg r v s) fun t => .next t.tick := by
  simp [wr, hostEvent, busWrite_of_mapped (windowReg_windowOffset r)]

theorem hostEvent_of_badEvent (e : HostEvent) (h : badEvent e) (s : State) :
    hostEvent e s = .fault .busError := by
  cases e with
  | read width off =>
    cases width with
    | bits32 => simp [hostEvent, busRead, windowReg_of_badAccess h, andThen]
    | _ => rfl
  | write width off v =>
    cases width with
    | bits32 => simp [hostEvent, busWrite, windowReg_of_badAccess h, andThen]
    | _ => rfl
  | reset => exact h.elim

/-- Every other event ends in a next state, a command word's write too (assumption 2). -/
theorem hostEvent_answers (e : HostEvent) (h : ¬ badEvent e) (s : State) : ∃ t, hostEvent e s = .next t := by
  cases e with
  | read width off =>
    obtain ⟨rfl, r, rfl⟩ := windowOffset_of_not_badAccess h
    exact ⟨_, hostEvent_rd r s⟩
  | write width off v =>
    obtain ⟨rfl, r, rfl⟩ := windowOffset_of_not_badAccess h
    obtain ⟨t, ht⟩ := writeReg_answers r v s
    exact ⟨t.tick, (hostEvent_wr r v s).trans (by rw [ht, andThen_next])⟩
  | reset => exact ⟨_, rfl⟩

/-- The host's next access is one R43 answers with a bus error. -/
def nextIsBad (s : State) : Prop :=
  ∃ e ∈ s.pending.head?, badEvent e

theorem nextIsBad_iff (s : State) :
    nextIsBad s ↔ ∃ rest width off, badAccess width off ∧
      (s.pending = .read width off :: rest ∨ ∃ v, s.pending = .write width off v :: rest) := by
  constructor
  · rintro ⟨e, he, hbad⟩
    obtain ⟨rest, hp⟩ := List.head?_eq_some_iff.1 he
    cases e with
    | read width off => exact ⟨rest, width, off, hbad, .inl hp⟩
    | write width off v => exact ⟨rest, width, off, hbad, .inr ⟨v, hp⟩⟩
    | reset => exact hbad.elim
  · rintro ⟨rest, width, off, hbad, hp | ⟨v, hp⟩⟩
    · exact ⟨.read width off, by simp [hp], hbad⟩
    · exact ⟨.write width off v, by simp [hp], hbad⟩

/-- Everything a step can do: it faults at a bad access, and otherwise ends in a next state. -/
theorem step_cases (s : State) :
    (nextIsBad s ∧ step s = .fault .busError) ∨ (¬ nextIsBad s ∧ ∃ t, step s = .next t) := by
  cases hp : s.pending with
  | nil => exact .inr ⟨by simp [nextIsBad, hp], s, step_of_nil hp⟩
  | cons e rest =>
    have hbad : nextIsBad s ↔ badEvent e := by simp [nextIsBad, hp]
    rw [hbad, step_of_cons hp]
    by_cases h : badEvent e
    · exact .inl ⟨h, hostEvent_of_badEvent e h _⟩
    · exact .inr ⟨h, hostEvent_answers e h _⟩

/-- Settles O11: of the two ways a step can go, the fault is at a bad access. -/
theorem onlyBadAccessesStopTheMachine : Obligations.OnlyBadAccessesStopTheMachine := by
  intro s
  rw [← nextIsBad_iff]
  obtain ⟨hbad, e⟩ | ⟨hok, t, e⟩ := step_cases s <;> rw [e]
  case inl => exact ⟨nofun, fun _ => hbad, fun _ => rfl⟩
  case inr => exact ⟨nofun, nofun, fun h => absurd h hok⟩

end Sys2Proof.Statement
end

section
/-! SUPPORT. The reserved bits of the control registers (10_state.md R18, R22 to R25): a mask laid out as the
fields of the word it meets. -/

namespace Sys2Proof.Statement

open Sys2Proof Sys2Proof.Machine

/-! ### Reads -/

theorem statusWord_reserved (s : State) : statusWord s &&& 0xFFF8C0F0#32 = 0 := by
  change (0#13 ++ s.errInfo ++ 0#2 ++ s.errOpc ++ 0#4 ++ s.err) &&&
    (BitVec.allOnes 13 ++ 0#3 ++ BitVec.allOnes 2 ++ 0#6 ++ BitVec.allOnes 4 ++ 0#4) = 0
  simp only [BitVec.and_append, BitVec.zero_and, BitVec.and_zero]
  rfl

theorem ctrlWord_reserved (s : State) : ctrlWord s &&& 0xFFFFFF60#32 = 0 := by
  change (0#24 ++ BitVec.ofBool s.active ++ 0#2 ++ blockOpBits s.op ++ dirBit s.dir ++ modeBits s.mode) &&&
    (BitVec.allOnes 24 ++ 0#1 ++ BitVec.allOnes 2 ++ 0#2 ++ 0#1 ++ 0#2) = 0
  simp only [BitVec.and_append, BitVec.zero_and, BitVec.and_zero]
  rfl

theorem rkcntWord_reserved (s : State) : rkcntWord s &&& 0xFFFFFFF0#32 = 0 := by
  change (0#28 ++ s.rkCount) &&& (BitVec.allOnes 28 ++ 0#4) = 0
  simp only [BitVec.and_append, BitVec.zero_and, BitVec.and_zero]
  rfl

theorem gfrWord_reserved (s : State) : gfrWord s &&& 0xFFFFFF00#32 = 0 := by
  change (0#24 ++ s.gfr) &&& (BitVec.allOnes 24 ++ 0#8) = 0
  simp only [BitVec.and_append, BitVec.zero_and, BitVec.and_zero]
  rfl

/-! ### Writes -/

/-- A mask with a field's bits all set leaves the field. -/
theorem extractLsb'_and_of_allOnes {m : Word} {start len : Nat}
    (h : m.extractLsb' start len = BitVec.allOnes len) (v : Word) :
    (v &&& m).extractLsb' start len = v.extractLsb' start len := by
  rw [BitVec.extractLsb'_and, h, BitVec.and_allOnes]

theorem writeStatus_and_mask (v : Word) (s : State) : writeStatus (v &&& 0x80000000#32) s = writeStatus v s := by
  have hbit : (v &&& 0x80000000#32).getLsbD 31 = v.getLsbD 31 := by
    rw [BitVec.getLsbD_and]
    exact Bool.and_true _
  rw [writeStatus, writeStatus, hbit]

theorem writeLen_and_mask (v : Word) (s : State) : writeLen (v &&& 0x00FFFFFF#32) s = writeLen v s := by
  rw [writeLen, writeLen, extractLsb'_and_of_allOnes rfl, extractLsb'_and_of_allOnes rfl,
    extractLsb'_and_of_allOnes rfl]

theorem writeRkcnt_and_mask (v : Word) (s : State) : writeRkcnt (v &&& 0x0000000F#32) s = writeRkcnt v s := by
  rw [writeRkcnt, writeRkcnt, extractLsb'_and_of_allOnes rfl]

/-- Settles O13: a bad access faults and every other is answered; then the reserved bits, read and written. -/
theorem accessRule : Obligations.AccessRule := by
  refine ⟨fun s width off v => ⟨fun hbad => ?_, fun hok => ?_⟩, fun s => ?_, fun s v => ?_⟩
  · exact ⟨hostEvent_of_badEvent (.read width off) hbad s, hostEvent_of_badEvent (.write width off v) hbad s⟩
  · exact ⟨hostEvent_answers (.read width off) hok s, hostEvent_answers (.write width off v) hok s⟩
  · exact ⟨statusWord_reserved s, ctrlWord_reserved s, rkcntWord_reserved s, gfrWord_reserved s⟩
  · simp only [writeReg, writeStatus_and_mask, writeLen_and_mask, writeRkcnt_and_mask, and_self]

end Sys2Proof.Statement
end

section
/-! SUPPORT. What a host access reads and writes (20_memory.md R42, R46, R47). -/

namespace Sys2Proof.Statement

open Sys2Proof Sys2Proof.Machine

/-- The record of reads and the count of accesses are no register (R46). -/
theorem sameReg_observed_tick (s : State) (l : List Word) (r : WindowReg) :
    sameReg s ({ s with observed := l } : State).tick r :=
  sameReg_refl s r

/-- Settles O14: a read writes the model's record of reads and its count, no register. -/
theorem hostReadChangesNoRegister : Obligations.HostReadChangesNoRegister := by
  intro s r
  refine ⟨_, hostEvent_rd r s, rfl, rfl, sameReg_observed_tick s _, ?_⟩
  rintro rfl
  rfl

/-! ### Registers of whole words -/

/-- DOUT alone of the data registers is read-only (10_state.md R16). -/
theorem writeData_of_ne_dout {r : DataReg} (h : r ≠ .dout) (j : Fin 4) (v : Word) (s : State) :
    writeData r j v s = s.putWord r j v := by
  cases r with
  | dout => exact absurd rfl h
  | _ => rfl

theorem readReg_putWord_self (s : State) (r : DataReg) (j : Fin 4) (v : Word) :
    readReg (s.putWord r j v) (.data r j) = v := by
  simp [readReg, State.dataWord]

theorem readReg_writeBlkIdx_self (s : State) (j : Fin 4) (v : Word) :
    readReg (writeBlkIdx j v s) (.blkIdx j) = v := by
  simp [readReg, writeBlkIdx]

@[simp] theorem roundWord_putRoundWord_self (s : State) (i : Fin 44) (v : Word) :
    (s.putRoundWord i v).roundWord i = unpackWord v := by
  simp [State.roundWord]

theorem readReg_putRoundWord_self (s : State) (i : Fin 44) (v : Word) :
    readReg (s.putRoundWord i v) (.roundWord i) = v := by
  simp [readReg]

theorem keeps_putWord (s : State) (r : DataReg) (j : Fin 4) (v : Word) :
    keeps s (s.putWord r j v) fun q => q == .data r j := by
  refine keeps_of_sameReg ⟨by simp, by simp, by simp⟩ fun q hq => ?_
  cases q with
  | data d k =>
    by_cases hd : d = r
    · subst hd
      have hk : k ≠ j := by simpa using hq
      simp [sameReg, quadGet_quadSet_ne _ _ _ _ hk]
    · simp [sameReg, State.reg_putWord_ne s r d j v hd]
  | _ => simp [sameReg]

theorem keeps_writeBlkIdx (s : State) (j : Fin 4) (v : Word) :
    keeps s (writeBlkIdx j v s) fun q => q == .blkIdx j := by
  refine keeps_of_sameReg ⟨rfl, rfl, rfl⟩ fun q hq => ?_
  cases q with
  | blkIdx k =>
    have hk : k ≠ j := by simpa using hq
    simp [sameReg, writeBlkIdx, quadGet_quadSet_ne _ _ _ _ hk]
  | _ => exact ((keeps_blkIdx s _).2 _ rfl).1

theorem keeps_putRoundWord (s : State) (i : Fin 44) (v : Word) :
    keeps s (s.putRoundWord i v) fun q => q == .roundWord i := by
  refine keeps_of_sameReg ⟨rfl, rfl, rfl⟩ fun q hq => ?_
  cases q with
  | roundWord k =>
    have hk : i.val ≠ k.val := fun h => by simp [Fin.ext h] at hq
    simp [sameReg, Vector.getElem_set_ne _ _ hk]
  | _ => simp [sameReg]

/-- A write of a register that stores whole words is read back, and is seen in that register alone. -/
theorem writeReg_of_storesWord {r : WindowReg} (h : storesWord r = true) (v : Word) (s : State) :
    ∃ t, writeReg r v s = .next t ∧ readReg t r = v ∧ keeps s t fun q => q == r := by
  cases r with
  | data r j =>
    have hr : r ≠ .dout := by simpa [storesWord] using h
    exact ⟨_, by rw [writeReg, writeData_of_ne_dout hr], readReg_putWord_self s r j v, keeps_putWord s r j v⟩
  | blkIdx j => exact ⟨_, rfl, readReg_writeBlkIdx_self s j v, keeps_writeBlkIdx s j v⟩
  | roundWord i => exact ⟨_, rfl, readReg_putRoundWord_self s i v, keeps_putRoundWord s i v⟩
  | _ => cases h

/-! ### LEN and RKCNT -/

theorem keeps_writeLen (s : State) (v : Word) : keeps s (writeLen v s) fun q => q == .len := by
  refine keeps_of_sameReg ⟨rfl, rfl, rfl⟩ fun q hq => ?_
  cases q with
  | len => cases hq
  | _ => simp [sameReg, State.reg, writeLen]

/-- The mask of the low three bytes clears the byte packed first. -/
theorem packWord_and_low_bytes (q : Column) : packWord q &&& 0x00FFFFFF#32 = packWord { q with a0 := 0 } := by
  change (q.a0 ++ q.a1 ++ q.a2 ++ q.a3)
    &&& (0#8 ++ BitVec.allOnes 8 ++ BitVec.allOnes 8 ++ BitVec.allOnes 8) = 0#8 ++ q.a1 ++ q.a2 ++ q.a3
  simp only [BitVec.and_append, BitVec.and_zero, BitVec.and_allOnes]

/-- LEN holds the written word but for its top byte, which is DOUT_LEN (R24). -/
theorem lenWord_writeLen (v : Word) (s : State) :
    lenWord (writeLen v s) &&& 0x00FFFFFF#32 = v &&& 0x00FFFFFF#32 := calc
  _ = packWord { unpackWord v with a0 := s.doutLen } &&& 0x00FFFFFF#32 := rfl
  _ = packWord (unpackWord v) &&& 0x00FFFFFF#32 := by rw [packWord_and_low_bytes, packWord_and_low_bytes]
  _ = v &&& 0x00FFFFFF#32 := by rw [packWord_unpackWord]

/-- RKCNT holds the low four bits of the written word (R18). -/
theorem rkcntWord_writeRkcnt (v : Word) (s : State) : rkcntWord (writeRkcnt v s) = v &&& 0x0000000F#32 := by
  have split : v.extractLsb' 4 28 ++ v.extractLsb' 0 4 = v :=
    (BitVec.extractLsb'_append_extractLsb'_eq_extractLsb' rfl).trans BitVec.extractLsb'_eq_self
  have low : (v.extractLsb' 4 28 ++ v.extractLsb' 0 4) &&& (0#28 ++ BitVec.allOnes 4)
      = 0#28 ++ v.extractLsb' 0 4 := by
    rw [BitVec.and_append, BitVec.and_zero, BitVec.and_allOnes]
  rw [split] at low
  exact low.symm

/-- Settles O15: the registers that store whole words, DOUT, and the writable fields of LEN and RKCNT. -/
theorem hostWriteThenRead : Obligations.HostWriteThenRead := by
  refine ⟨fun s r v h => ?_, fun s j v => rfl, fun s v => ?_, fun s v => ?_⟩
  · rw [busWrite_of_mapped (windowReg_windowOffset r)]
    exact writeReg_of_storesWord h v s
  · exact ⟨_, rfl, rfl, lenWord_writeLen v s, keeps_writeLen s v⟩
  · exact ⟨_, rfl, rkcntWord_writeRkcnt v s, keeps_rkCount s _⟩

end Sys2Proof.Statement
end

section
/-! SUPPORT. Blocks and round-key words on the bus (20_memory.md R45): the byte lanes of a word, and the four
writes of a block (30_encoding.md R71). -/

namespace Sys2Proof.Statement

open Sys2Proof Sys2Proof.Machine

/-! ### Byte lanes -/

theorem quadGet_unpackWord (v : Word) (k : Fin 4) : quadGet (unpackWord v) k = v.extractLsb' (24 - 8 * k.val) 8 := by
  revert k
  exact forall_fin_four rfl rfl rfl rfl

/-- Byte `k` of a packed word stands in its own lane, byte 0 in bits [31:24]. -/
theorem extractLsb'_packWord (q : Column) (k : Fin 4) : (packWord q).extractLsb' (24 - 8 * k.val) 8 = quadGet q k := by
  rw [← quadGet_unpackWord, unpackWord_packWord]

/-- Byte `i` of a data register is read in lane `i % 4` of its word `i / 4`. -/
theorem readReg_data_lane (t : State) (r : DataReg) (i : Nat) :
    (readReg t (.data r (Fin.ofNat 4 (i / 4)))).extractLsb' (24 - 8 * (i % 4)) 8 = byteAt (t.block r) i := by
  have h := extractLsb'_packWord (t.dataWord r (Fin.ofNat 4 (i / 4))) (Fin.ofNat 4 (i % 4))
  rw [← quadGet_block] at h
  simpa [readReg, byteAt, cell, quadGet_block] using h

/-! ### The writes of a block -/

@[simp] theorem reg_tick (s : State) (r : DataReg) : s.tick.reg r = s.reg r := by
  cases r <;> rfl

theorem hostEvent_wr_data (r : DataReg) (j : Fin 4) (v : Word) (s : State) :
    hostEvent (wr (.data r j) v) s = .next (writeData r j v s).tick :=
  hostEvent_wr _ v s

theorem reg_writeData_self {r : DataReg} (h : r ≠ .dout) (j : Fin 4) (v : Word) (s : State) :
    (writeData r j v s).reg r = quadSet (s.reg r) j (present (unpackWord v)) := by
  rw [writeData_of_ne_dout h, State.reg_putWord_self]

/-- Replacing all four leaves nothing of the first. -/
theorem quadSet_all {α : Type} (q : Quad α) (x0 x1 x2 x3 : α) :
    quadSet (quadSet (quadSet (quadSet q 0 x0) 1 x1) 2 x2) 3 x3 = ⟨x0, x1, x2, x3⟩ := rfl

/-- The state after the four writes of a block, each of which advances the count of accesses. -/
def afterBlockWrites (r : DataReg) (b : Block) (s : State) : State :=
  (writeData r 3 (packWord b.a3) (writeData r 2 (packWord b.a2)
    (writeData r 1 (packWord b.a1) (writeData r 0 (packWord b.a0) s).tick).tick).tick).tick

theorem perform_wr128_data (r : DataReg) (b : Block) (s : State) :
    perform (wr128 (.data r) b) s = .next (afterBlockWrites r b s) := by
  simp only [wr128, perform, hostEvent_wr_data, andThen_next, afterBlockWrites]

/-- The four writes leave the block in a register that can be written. -/
theorem block_afterBlockWrites {r : DataReg} (h : r ≠ .dout) (b : Block) (s : State) :
    (afterBlockWrites r b s).block r = b := by
  refine State.block_of_reg ?_
  simp only [afterBlockWrites, reg_tick, reg_writeData_self h, unpackWord_packWord, quadSet_all]
  rfl

/-! ### The write of a round-key word -/

theorem hostEvent_wr_roundWord (i : Fin 44) (v : Word) (s : State) :
    hostEvent (wr (.roundWord i) v) s = .next (s.putRoundWord i v).tick :=
  hostEvent_wr _ v s

theorem roundWord_tick_putRoundWord (i : Fin 44) (v : Word) (s : State) :
    (s.putRoundWord i v).tick.roundWord i = unpackWord v := by
  simp [State.roundWord, State.tick]

/-- Settles O16: a block is written as it is and read lane by lane; so is a round-key word. -/
theorem wordsArePackedBigEndian : Obligations.WordsArePackedBigEndian := by
  refine ⟨fun s r b i _ => ?_, fun s i v k => ⟨?_, extractLsb'_packWord (s.roundWord i) k⟩⟩
  · exact ⟨_, perform_wr128_data r b s, fun h => by rw [block_afterBlockWrites h], readReg_data_lane _ r i⟩
  · have hw := roundWord_tick_putRoundWord i v s
    exact ⟨_, hostEvent_wr_roundWord i v s, by rw [readReg, hw, packWord_unpackWord],
      by rw [hw, quadGet_unpackWord]⟩

end Sys2Proof.Statement
end

section
/-! SUPPORT. The fields of a command word (30_encoding.md R60 to R65): a word is its fields side by side, and the
mask of a format asks that the bits beside its fields are 0. -/

namespace Sys2Proof

/-- Words laid side by side are equal part by part. -/
theorem append_eq_append_iff {m n : Nat} {x x' : BitVec m} {y y' : BitVec n} :
    x ++ y = x' ++ y' ↔ x = x' ∧ y = y' := by
  refine ⟨fun h => ⟨?_, ?_⟩, fun ⟨hx, hy⟩ => by rw [hx, hy]⟩
  · simpa only [BitVec.extractLsb'_append_eq_left] using congrArg (BitVec.extractLsb' n m) h
  · simpa only [BitVec.extractLsb'_append_eq_right] using congrArg (BitVec.extractLsb' 0 n) h

/-! ### Fields read back from a word of format M -/

theorem fieldMode_wordM (opc : BitVec 6) (m : Mode) (d : Dir) (op : BitVec 2) :
    fieldMode (wordM opc m d op) = m := by
  have hbits : (wordM opc m d op).extractLsb' 16 2 = modeBits m := by
    ext j hj
    simp only [wordM, BitVec.getElem_extractLsb', BitVec.getLsbD_append]
    grind
  rw [fieldMode, hbits, modeOfBits_modeBits]

theorem fieldDir_wordM (opc : BitVec 6) (m : Mode) (d : Dir) (op : BitVec 2) :
    fieldDir (wordM opc m d op) = d := by
  have hbit : (wordM opc m d op).extractLsb' 18 1 = dirBit d := by
    ext j hj
    simp only [wordM, BitVec.getElem_extractLsb', BitVec.getLsbD_append]
    grind
  rw [fieldDir, hbit, dirOfBit_dirBit]

theorem fieldOp_wordM (opc : BitVec 6) (m : Mode) (d : Dir) (op : BitVec 2) :
    fieldOp (wordM opc m d op) = op := by
  ext j hj
  simp only [fieldOp, wordM, BitVec.getElem_extractLsb', BitVec.getLsbD_append]
  grind

/-! ### A word as its fields -/

theorem fieldsN_append (cmd : Word) : cmd.extractLsb' 6 26 ++ fieldOpc cmd = cmd := by
  simp only [fieldOpc, BitVec.extractLsb'_append_extractLsb'_eq_extractLsb']
  exact BitVec.extractLsb'_eq_self

theorem fieldsR_append (cmd : Word) :
    cmd.extractLsb' 12 20 ++ fieldRnd cmd ++ cmd.extractLsb' 6 2 ++ fieldOpc cmd = cmd := by
  simp only [fieldOpc, fieldRnd, BitVec.extractLsb'_append_extractLsb'_eq_extractLsb']
  exact BitVec.extractLsb'_eq_self

theorem fieldsG_append (cmd : Word) :
    fieldB cmd ++ fieldA cmd ++ cmd.extractLsb' 6 10 ++ fieldOpc cmd = cmd := by
  simp only [fieldOpc, fieldA, fieldB, BitVec.extractLsb'_append_extractLsb'_eq_extractLsb']
  exact BitVec.extractLsb'_eq_self

theorem fieldsM_append (cmd : Word) :
    cmd.extractLsb' 21 11 ++ fieldOp cmd ++ dirBit (fieldDir cmd) ++ modeBits (fieldMode cmd)
      ++ cmd.extractLsb' 6 10 ++ fieldOpc cmd = cmd := by
  simp only [fieldOpc, fieldMode, fieldDir, fieldOp, modeBits_modeOfBits, dirBit_dirOfBit,
    BitVec.extractLsb'_append_extractLsb'_eq_extractLsb']
  exact BitVec.extractLsb'_eq_self

/-! ### The bits a format fixes -/

theorem eq_wordN_iff (p : BitVec 26) (o opc : BitVec 6) :
    p ++ o = wordN opc ↔ (p ++ o) &&& formatMask .n = opc.setWidth 32 := by
  rw [BitVec.setWidth_eq_append (by decide)]
  change p ++ o = 0#26 ++ opc ↔ (p ++ o) &&& (BitVec.allOnes 26 ++ BitVec.allOnes 6) = 0#26 ++ opc
  simp only [BitVec.and_append, BitVec.and_allOnes]

theorem eq_wordR_iff (p : BitVec 20) (rnd : BitVec 4) (q : BitVec 2) (o opc : BitVec 6) :
    p ++ rnd ++ q ++ o = wordR opc rnd ↔
      (p ++ rnd ++ q ++ o) &&& formatMask .r = opc.setWidth 32 := by
  rw [BitVec.setWidth_eq_append (by decide)]
  change p ++ rnd ++ q ++ o = 0#20 ++ rnd ++ 0#2 ++ opc ↔
    (p ++ rnd ++ q ++ o) &&& (BitVec.allOnes 20 ++ 0#4 ++ BitVec.allOnes 2 ++ BitVec.allOnes 6)
      = 0#20 ++ 0#4 ++ 0#2 ++ opc
  simp only [BitVec.and_append, BitVec.and_allOnes, BitVec.and_zero, append_eq_append_iff, and_true]

theorem eq_wordG_iff (a b : Byte) (q : BitVec 10) (o opc : BitVec 6) :
    b ++ a ++ q ++ o = wordG opc a b ↔ (b ++ a ++ q ++ o) &&& formatMask .g = opc.setWidth 32 := by
  rw [BitVec.setWidth_eq_append (by decide)]
  change b ++ a ++ q ++ o = b ++ a ++ 0#10 ++ opc ↔
    (b ++ a ++ q ++ o) &&& (0#8 ++ 0#8 ++ BitVec.allOnes 10 ++ BitVec.allOnes 6)
      = 0#8 ++ 0#8 ++ 0#10 ++ opc
  simp only [BitVec.and_append, BitVec.and_allOnes, BitVec.and_zero, append_eq_append_iff, true_and]

theorem eq_wordG_zero_iff (a b : Byte) (q : BitVec 10) (o opc : BitVec 6) :
    b ++ a ++ q ++ o = wordG opc a 0 ↔ (b ++ a ++ q ++ o) &&& formatMask .g1 = opc.setWidth 32 := by
  rw [BitVec.setWidth_eq_append (by decide)]
  change b ++ a ++ q ++ o = 0#8 ++ a ++ 0#10 ++ opc ↔
    (b ++ a ++ q ++ o) &&& (BitVec.allOnes 8 ++ 0#8 ++ BitVec.allOnes 10 ++ BitVec.allOnes 6)
      = 0#8 ++ 0#8 ++ 0#10 ++ opc
  simp only [BitVec.and_append, BitVec.and_allOnes, BitVec.and_zero, append_eq_append_iff, and_true]

theorem eq_wordM_iff (p : BitVec 11) (op : BitVec 2) (d : Dir) (m : Mode) (q : BitVec 10) (o opc : BitVec 6) :
    p ++ op ++ dirBit d ++ modeBits m ++ q ++ o = wordM opc m d op ↔
      (p ++ op ++ dirBit d ++ modeBits m ++ q ++ o) &&& formatMask .m = opc.setWidth 32 := by
  rw [BitVec.setWidth_eq_append (by decide)]
  change p ++ op ++ dirBit d ++ modeBits m ++ q ++ o = 0#11 ++ op ++ dirBit d ++ modeBits m ++ 0#10 ++ opc ↔
    (p ++ op ++ dirBit d ++ modeBits m ++ q ++ o) &&&
        (BitVec.allOnes 11 ++ 0#2 ++ 0#1 ++ 0#2 ++ BitVec.allOnes 10 ++ BitVec.allOnes 6)
      = 0#11 ++ 0#2 ++ 0#1 ++ 0#2 ++ 0#10 ++ opc
  simp only [BitVec.and_append, BitVec.and_allOnes, BitVec.and_zero, append_eq_append_iff, and_true]

/-- The fields of a word laid out again in a format, with 0 in every bit beside them. -/
def relaid (f : Format) (opc : BitVec 6) (cmd : Word) : Word :=
  match f with
  | .n => wordN opc
  | .r => wordR opc (fieldRnd cmd)
  | .g => wordG opc (fieldA cmd) (fieldB cmd)
  | .g1 => wordG opc (fieldA cmd) 0
  | .m => wordM opc (fieldMode cmd) (fieldDir cmd) (fieldOp cmd)

/-- A word passes the mask of a format exactly where it is its own fields laid out in it. -/
theorem eq_relaid_iff (f : Format) (opc : BitVec 6) (cmd : Word) :
    cmd = relaid f opc cmd ↔ cmd &&& formatMask f = opc.setWidth 32 := by
  cases f with
  | n =>
    have h := eq_wordN_iff (cmd.extractLsb' 6 26) (fieldOpc cmd) opc
    rwa [fieldsN_append] at h
  | r =>
    have h := eq_wordR_iff (cmd.extractLsb' 12 20) (fieldRnd cmd) (cmd.extractLsb' 6 2) (fieldOpc cmd) opc
    rwa [fieldsR_append] at h
  | g =>
    have h := eq_wordG_iff (fieldA cmd) (fieldB cmd) (cmd.extractLsb' 6 10) (fieldOpc cmd) opc
    rwa [fieldsG_append] at h
  | g1 =>
    have h := eq_wordG_zero_iff (fieldA cmd) (fieldB cmd) (cmd.extractLsb' 6 10) (fieldOpc cmd) opc
    rwa [fieldsG_append] at h
  | m =>
    have h := eq_wordM_iff (cmd.extractLsb' 21 11) (fieldOp cmd) (fieldDir cmd) (fieldMode cmd)
      (cmd.extractLsb' 6 10) (fieldOpc cmd) opc
    rwa [fieldsM_append] at h

end Sys2Proof
end

section
/-! SUPPORT. Decoding and encoding are inverse (30_encoding.md R65 to R67): a row of the opcode map accepts a word
exactly where the row's command is well-formed and has that word. -/

namespace Sys2Proof

/-- The command a row makes of a word has the word's fields, laid out in the row's format. -/
theorem encode_rowCommand {row : OpcodeRow} (h : row ∈ opcodeMap) (cmd : Word) :
    encode (row.command cmd) = relaid row.format row.opc cmd := by
  fin_cases h <;> rfl

/-- OP = 3 is the only operand value the encoding has no command for (R64, R68). -/
theorem wellFormed_rowCommand {row : OpcodeRow} (h : row ∈ opcodeMap) (cmd : Word) :
    (row.command cmd).wellFormed = true ↔ ¬ (row.format = .m ∧ fieldOp cmd = 3) := by
  fin_cases h <;> simp [Instr.wellFormed]

/-- A row accepts a word exactly where it makes of it a well-formed command with that word. -/
theorem decode_eq_command_iff {row : OpcodeRow} {cmd : Word} (h : row ∈ opcodeMap)
    (hopc : fieldOpc cmd = row.opc) (i : Instr) :
    decode cmd = .command i ↔ row.command cmd = i ∧ i.wellFormed = true ∧ cmd = encode i := by
  have hmask : cmd = encode (row.command cmd) ↔ cmd &&& formatMask row.format = row.opc.setWidth 32 := by
    rw [encode_rowCommand h, eq_relaid_iff]
  have hwf := wellFormed_rowCommand h cmd
  rw [decode_of_row h hopc]
  split_ifs with hbits hop
  · refine ⟨nofun, ?_⟩
    rintro ⟨rfl, -, hword⟩
    exact absurd (hmask.1 hword) hbits
  · refine ⟨nofun, ?_⟩
    rintro ⟨rfl, hwell, -⟩
    exact absurd hop (hwf.1 hwell)
  · refine ⟨?_, fun ⟨hcommand, _⟩ => by rw [hcommand]⟩
    rintro ⟨⟩
    exact ⟨rfl, hwf.2 hop, hmask.2 (not_not.1 hbits)⟩

/-- The OPC of a command stands in its word (R60). -/
theorem fieldOpc_encode (i : Instr) : fieldOpc (encode i) = opcOf i := by
  cases i with
  | addRoundKey rnd => exact fieldOpc_wordR _ rnd
  | encRound rnd => exact fieldOpc_wordR _ rnd
  | decRound rnd => exact fieldOpc_wordR _ rnd
  | gfMul a b => exact fieldOpc_wordG _ a b
  | sboxRead a => exact fieldOpc_wordG _ a 0
  | invSboxRead a => exact fieldOpc_wordG _ a 0
  | modeInit m d op => exact Laws.Opcode.fieldOpc_wordM _ m d op
  | _ => exact fieldOpc_wordN _

/-- Every command has a row of the opcode map, which reads it back from its word, every operand included. -/
theorem exists_row_of_instr (i : Instr) :
    ∃ row ∈ opcodeMap, row.opc = opcOf i ∧ row.command (encode i) = i := by
  suffices h : ∃ row, opcodeMap.find? (fun r => r.opc == opcOf i) = some row ∧ row.command (encode i) = i by
    obtain ⟨row, hfind, hcommand⟩ := h
    exact ⟨row, List.mem_of_find?_eq_some hfind, by simpa using List.find?_some hfind, hcommand⟩
  cases i with
  | addRoundKey rnd => exact ⟨_, rfl, by simp only [encode, fieldRnd_wordR]⟩
  | encRound rnd => exact ⟨_, rfl, by simp only [encode, fieldRnd_wordR]⟩
  | decRound rnd => exact ⟨_, rfl, by simp only [encode, fieldRnd_wordR]⟩
  | gfMul a b => exact ⟨_, rfl, by simp only [encode, fieldA_wordG, fieldB_wordG]⟩
  | sboxRead a => exact ⟨_, rfl, by simp only [encode, fieldA_wordG]⟩
  | invSboxRead a => exact ⟨_, rfl, by simp only [encode, fieldA_wordG]⟩
  | modeInit m d op => exact ⟨_, rfl, by simp only [encode, fieldMode_wordM, fieldDir_wordM, fieldOp_wordM]⟩
  | _ => exact ⟨_, rfl, rfl⟩

/-- Settles O2: the command's own row accepts its word. -/
theorem decodeOfEncodeIsTheCommand : Obligations.DecodeOfEncodeIsTheCommand := by
  intro i hwf
  obtain ⟨row, hrow, hopc, hcommand⟩ := exists_row_of_instr i
  exact (decode_eq_command_iff hrow ((fieldOpc_encode i).trans hopc.symm) i).2 ⟨hcommand, hwf, rfl⟩

/-- Settles O3: a word that decodes to a command is accepted by the row of its OPC. -/
theorem encodeOfDecodeIsTheWord : Obligations.EncodeOfDecodeIsTheWord := by
  intro cmd i h
  obtain ⟨row, hrow, hopc⟩ | ⟨_, hillegal⟩ := decode_cases cmd
  · obtain ⟨-, hwf, hword⟩ := (decode_eq_command_iff hrow hopc i).1 h
    exact ⟨hwf, hword.symm⟩
  · rw [hillegal] at h
    cases h

/-- Settles O1: closed words, each run through the decoder. -/
theorem specWordsDecode : Obligations.SpecWordsDecode := by
  unfold Obligations.SpecWordsDecode
  decide

end Sys2Proof
end

section
/-! SUPPORT. Illegal words (30_encoding.md R68): the unassigned OPC values are those of no row, and the bits a format
fixes are OPC and the bits it marks 0. -/

namespace Sys2Proof.Statement

open Sys2Proof Sys2Proof.Machine

/-- The OPC values R68 lists are those R66 has no row for. -/
theorem unassigned_iff (opc : BitVec 6) : unassigned opc.toNat ↔ ∀ row ∈ opcodeMap, row.opc ≠ opc := by
  unfold unassigned
  revert opc
  decide

/-- A format fixes the bits it marks 0, and OPC. -/
theorem formatMask_of_row {row : OpcodeRow} (h : row ∈ opcodeMap) :
    formatMask row.format = zeroBits row.opc.toNat ||| 0x3F#32 ∧ zeroBits row.opc.toNat &&& 0x3F#32 = 0 := by
  revert row
  decide

theorem and_opcBits (cmd : Word) : cmd &&& 0x3F#32 = (fieldOpc cmd).setWidth 32 := by
  have h : (cmd.extractLsb' 6 26 ++ fieldOpc cmd) &&& (0#26 ++ BitVec.allOnes 6) = 0#26 ++ fieldOpc cmd := by
    rw [BitVec.and_append, BitVec.and_zero, BitVec.and_allOnes]
  rw [fieldsN_append] at h
  rw [BitVec.setWidth_eq_append (by decide)]
  exact h

/-- In a word with the row's OPC, the bits the row fixes are right exactly where the bits its format marks 0 are 0. -/
theorem and_formatMask_eq_iff {row : OpcodeRow} {cmd : Word} (h : row ∈ opcodeMap) (hopc : fieldOpc cmd = row.opc) :
    cmd &&& formatMask row.format = row.opc.setWidth 32 ↔ cmd &&& zeroBits row.opc.toNat = 0 := by
  obtain ⟨hmask, hdisjoint⟩ := formatMask_of_row h
  rw [hmask, BitVec.and_or_distrib_left, ← hopc, ← and_opcBits]
  rw [← hopc] at hdisjoint
  generalize zeroBits (fieldOpc cmd).toNat = z at *
  constructor
  · intro hfixed
    -- absorption, then OPC's bits are none of the bits marked 0
    calc cmd &&& z = (cmd &&& z) &&& (cmd &&& z ||| cmd &&& 0x3F#32) := by grind
      _ = 0 := by rw [hfixed]; grind
  · intro hzero
    exact hzero ▸ BitVec.zero_or

theorem fieldOp_eq_three_iff (cmd : Word) : fieldOp cmd = 3 ↔ cmd &&& 0x00180000#32 = 0x00180000#32 := by
  have h : (cmd.extractLsb' 21 11 ++ fieldOp cmd ++ cmd.extractLsb' 0 19) &&& (0#11 ++ 3#2 ++ 0#19)
      = 0#11 ++ 3#2 ++ 0#19 ↔ fieldOp cmd = 3#2 := by
    have hall : ∀ v : BitVec 2, v &&& 3#2 = v := by decide
    simp only [BitVec.and_append, BitVec.and_zero, append_eq_append_iff, hall, true_and, and_true]
  have hword : cmd.extractLsb' 21 11 ++ fieldOp cmd ++ cmd.extractLsb' 0 19 = cmd := by
    simp only [fieldOp, BitVec.extractLsb'_append_extractLsb'_eq_extractLsb']
    exact BitVec.extractLsb'_eq_self
  rw [hword] at h
  exact h.symm

theorem format_eq_m_iff {row : OpcodeRow} (h : row ∈ opcodeMap) : row.format = .m ↔ row.opc.toNat = 0x20 := by
  revert row
  decide

/-- A word with an OPC of R66 is illegal in two ways, and the bits marked 0 come first (R67). -/
theorem decode_of_assigned {cmd : Word} (h : ¬ unassigned (fieldOpc cmd).toNat) :
    ∃ i, decode cmd =
      if cmd &&& zeroBits (fieldOpc cmd).toNat ≠ 0 then .illegal .reservedBit
      else if (fieldOpc cmd).toNat = 0x20 ∧ fieldOp cmd = 3 then .illegal .reservedOp
      else .command i := by
  rw [unassigned_iff] at h
  obtain ⟨row, hrow, hopc⟩ | ⟨hno, -⟩ := decode_cases cmd
  · refine ⟨row.command cmd, ?_⟩
    simp only [decode_of_row hrow hopc, ne_eq, and_formatMask_eq_iff hrow hopc, format_eq_m_iff hrow, hopc]
  · exact absurd hno h

theorem decode_of_unassigned {cmd : Word} (h : unassigned (fieldOpc cmd).toNat) :
    decode cmd = .illegal .unassignedOpc :=
  decode_of_no_row ((unassigned_iff _).1 h)

theorem decode_eq_unassignedOpc_iff (cmd : Word) :
    decode cmd = .illegal .unassignedOpc ↔ unassigned (fieldOpc cmd).toNat := by
  refine ⟨fun hd => ?_, decode_of_unassigned⟩
  by_contra h
  obtain ⟨i, hi⟩ := decode_of_assigned h
  rw [hi] at hd
  split_ifs at hd <;> cases hd

theorem decode_eq_reservedBit_iff (cmd : Word) :
    decode cmd = .illegal .reservedBit ↔
      ¬ unassigned (fieldOpc cmd).toNat ∧ cmd &&& zeroBits (fieldOpc cmd).toNat ≠ 0 := by
  by_cases h : unassigned (fieldOpc cmd).toNat
  · simp [decode_of_unassigned h, h]
  · obtain ⟨i, hi⟩ := decode_of_assigned h
    rw [hi]
    split_ifs <;> simp_all

theorem decode_eq_reservedOp_iff (cmd : Word) :
    decode cmd = .illegal .reservedOp ↔
      (fieldOpc cmd).toNat = 0x20 ∧ cmd &&& 0xFFE0FFC0#32 = 0 ∧ cmd &&& 0x00180000#32 = 0x00180000#32 := by
  rw [← fieldOp_eq_three_iff]
  by_cases h : unassigned (fieldOpc cmd).toNat
  · have hne : (fieldOpc cmd).toNat ≠ 0x20 := fun e => absurd (e ▸ h) (by unfold unassigned; decide)
    simp [decode_of_unassigned h, hne]
  · obtain ⟨i, hi⟩ := decode_of_assigned h
    rw [hi]
    by_cases hopc : (fieldOpc cmd).toNat = 0x20
    · have hz : zeroBits 0x20 = 0xFFE0FFC0#32 := rfl
      rw [hopc, hz]
      split_ifs <;> simp_all
    · split_ifs <;> simp_all

/-- An illegal word with no error pending records ILLEGAL in STATUS, and nothing else changes (R68). -/
theorem busWrite_of_illegal {cmd : Word} {k : IllegalKind} {s : State} (h : decode cmd = .illegal k)
    (hs : s.err = 0) : busWrite 0x000 cmd s = .next (s.raise (fieldOpc cmd) (.illegal k)) := by
  have hrun : busWrite 0x000 cmd s = illegalCommand (fieldOpc cmd) k s := by
    rw [busWrite_of_mapped (r := .cmd) rfl, writeReg, runCommand, h]
  obtain ⟨hne, -⟩ | ⟨-, he⟩ := illegalCommand_cases (fieldOpc cmd) k s
  · exact absurd hs hne
  · rw [hrun, he]

/-- Settles O4: the three kinds by the order of the checks, then what `illegalCommand` writes. -/
theorem illegalWordsRaiseIllegal : Obligations.IllegalWordsRaiseIllegal := by
  intro cmd
  refine ⟨decode_eq_unassignedOpc_iff cmd, decode_eq_reservedBit_iff cmd, decode_eq_reservedOp_iff cmd, ?_⟩
  intro k s hk hs
  refine ⟨_, busWrite_of_illegal hk hs, keeps_raise s _ _, ?_⟩
  rw [statusWord_eq]
  cases k <;> rfl

end Sys2Proof.Statement
end

section
/-! SUPPORT. The numbers of an assembler line (30_encoding.md R70): the digits that write a number read back as it. -/

namespace Sys2Proof.Machine

theorem digitValue_digitChar {d : Nat} (h : d < 16) : digitValue d.digitChar = some d := by
  revert d
  decide

theorem digitsValue_append (base : Nat) (l m : List Char) (acc : Nat) :
    digitsValue base acc (l ++ m) = (digitsValue base acc l).bind fun v => digitsValue base v m := by
  induction l generalizing acc with
  | nil => rfl
  | cons c l ih =>
    simp only [List.cons_append, digitsValue]
    cases digitValue c with
    | none => rfl
    | some d =>
      dsimp only
      split_ifs
      · exact ih _
      · rfl

theorem digitsValue_digitChar {base d : Nat} (hb : base ≤ 16) (hd : d < base) (acc : Nat) :
    digitsValue base acc [d.digitChar] = some (base * acc + d) := by
  simp [digitsValue, digitValue_digitChar (hd.trans_le hb), hd]

/-- The digits of a number in a base up to 16 read back as the number. -/
theorem digitsValue_toDigits {base : Nat} (h : 1 < base) (hb : base ≤ 16) (n : Nat) :
    digitsValue base 0 (Nat.toDigits base n) = some n := by
  induction n using Nat.strong_induction_on with
  | h n ih =>
    by_cases hn : n < base
    · rw [Nat.toDigits_of_lt_base hn, digitsValue_digitChar hb hn, Nat.mul_zero, Nat.zero_add]
    · have hle : base ≤ n := Nat.le_of_not_lt hn
      have hmod : n % base < base := Nat.mod_lt n (by omega)
      rw [Nat.toDigits_of_base_le h hle, digitsValue_append, ih _ (Nat.div_lt_self (by omega) h),
        Option.bind_some, digitsValue_digitChar hb hmod, Nat.div_add_mod]

theorem exists_digit_of_mem_toDigits {base : Nat} (h : 1 < base) {n : Nat} {c : Char}
    (hc : c ∈ Nat.toDigits base n) : ∃ d < base, c = d.digitChar := by
  induction n using Nat.strong_induction_on with
  | h n ih =>
    by_cases hn : n < base
    · rw [Nat.toDigits_of_lt_base hn, List.mem_singleton] at hc
      exact ⟨n, hn, hc⟩
    · have hle : base ≤ n := Nat.le_of_not_lt hn
      rw [Nat.toDigits_of_base_le h hle, List.mem_append, List.mem_singleton] at hc
      rcases hc with hc | hc
      · exact ih _ (Nat.div_lt_self (by omega) h) hc
      · exact ⟨n % base, Nat.mod_lt n (by omega), hc⟩

/-- A digit is no space, no comma, and not the `x` of `0x`. -/
theorem digitChar_ne {d : Nat} (h : d < 16) : d.digitChar ≠ ' ' ∧ d.digitChar ≠ ',' ∧ d.digitChar ≠ 'x' := by
  revert d
  decide

theorem ne_of_mem_toDigits {base : Nat} (h : 1 < base) (hb : base ≤ 16) {n : Nat} {c : Char}
    (hc : c ∈ Nat.toDigits base n) : c ≠ ' ' ∧ c ≠ ',' ∧ c ≠ 'x' := by
  obtain ⟨d, hd, rfl⟩ := exists_digit_of_mem_toDigits h hc
  exact digitChar_ne (hd.trans_le hb)

theorem asmPiece_toDigits {base : Nat} (h : 1 < base) (hb : base ≤ 16) (n : Nat) :
    AsmPiece (Nat.toDigits base n) := by
  refine ⟨Nat.toDigits_ne_nil, fun c hc => ?_⟩
  obtain ⟨hspace, hcomma, -⟩ := ne_of_mem_toDigits h hb hc
  exact ⟨hspace, hcomma⟩

/-- Digits with no `x` among them are decimal. -/
theorem asmNumber_decimal {cs : List Char} (hne : cs ≠ []) (hx : 'x' ∉ cs) :
    asmNumber cs = digitsValue 10 0 cs := by
  unfold asmNumber
  split
  · exact absurd rfl hne
  · simp at hx
  · rfl

theorem asmNumber_hex {cs : List Char} (hne : cs ≠ []) : asmNumber ('0' :: 'x' :: cs) = digitsValue 16 0 cs := by
  cases cs with
  | nil => exact absurd rfl hne
  | cons d rest => rfl

/-- The text of a number is one piece of a line, and the operand is the number. -/
theorem operand_of_numberText {n : Nat} {x : String} (h : Statement.numberText n x) :
    AsmPiece x.toList ∧ asmOperand x.toList = .num n := by
  rcases h with rfl | rfl
  · have hx : 'x' ∉ Nat.toDigits 10 n := fun hc => by
      obtain ⟨-, -, hne⟩ := ne_of_mem_toDigits (by decide) (by decide) hc
      exact hne rfl
    rw [String.toList_ofList, asmOperand, asmNumber_decimal Nat.toDigits_ne_nil hx,
      digitsValue_toDigits (by decide) (by decide)]
    exact ⟨asmPiece_toDigits (by decide) (by decide) n, rfl⟩
  · have hpre : ("0x" ++ String.ofList (Nat.toDigits 16 n)).toList = '0' :: 'x' :: Nat.toDigits 16 n := by simp
    have hdigits : AsmPiece (Nat.toDigits 16 n) := asmPiece_toDigits (by decide) (by decide) n
    rw [hpre, asmOperand, asmNumber_hex hdigits.1, digitsValue_toDigits (by decide) (by decide)]
    refine ⟨⟨nofun, fun c hc => ?_⟩, rfl⟩
    rcases List.mem_cons.1 hc with rfl | hc
    · decide
    · rcases List.mem_cons.1 hc with rfl | hc
      · decide
      · exact hdigits.2 c hc

end Sys2Proof.Machine
end

section
/-! SUPPORT. The lines of the commands (30_encoding.md R70), by the number of their operands, and the commands a line
can assemble to. -/

namespace Sys2Proof.Machine

/-- A piece is told by a look at its characters. -/
theorem AsmPiece.of_check {cs : List Char} (h : (!cs.isEmpty && cs.all fun c => c != ' ' && c != ',') = true) :
    AsmPiece cs := by
  simpa [AsmPiece] using h

/-! ### Lines as texts -/

/-- A line with no operand is its mnemonic. -/
theorem assembleLine_plain {m : String} (hm : AsmPiece m.toList) : assembleLine m = asmPlain m := by
  have htake : m.toList.takeWhile (fun c => c != ' ') = m.toList :=
    List.takeWhile_eq_self_iff.2 fun c hc => by simpa using (hm.2 c hc).1
  have hnil : trimSpaces [] = [] := rfl
  simp [assembleLine, hm.trim, htake, hnil, assemble]

/-- A line with three operands. -/
theorem assembleLine_three {m x y z : List Char} (hm : AsmPiece m) (hx : AsmPiece x) (hy : AsmPiece y)
    (hz : AsmPiece z) :
    assembleLine (String.ofList (m ++ ' ' :: (x ++ ',' :: ' ' :: (y ++ ',' :: ' ' :: z))))
      = assemble (String.ofList m) [asmOperand x, asmOperand y, asmOperand z] := by
  have hlast : ∀ cs : List Char, (cs ++ z).getLast? ≠ some ' ' := fun cs => by
    rw [List.getLast?_append_of_ne_nil _ hz.1]
    exact hz.getLast_ne
  have hhead : (x ++ ',' :: ' ' :: (y ++ ',' :: ' ' :: z)).head? ≠ some ' ' := by
    rw [List.head?_append_of_ne_nil _ hx.1]
    exact hx.head_ne
  have hcomma : ∀ {p : List Char}, AsmPiece p → ∀ c ∈ ' ' :: p, c ≠ ',' := fun hp c hc => by
    rcases List.mem_cons.1 hc with rfl | hc
    · decide
    · exact (hp.2 c hc).2
  rw [assembleLine_eq hm hhead
    (by simpa [List.append_assoc] using hlast (m ++ ' ' :: (x ++ ',' :: ' ' :: (y ++ [',', ' ']))))
    (by simpa [List.append_assoc] using hlast (x ++ ',' :: ' ' :: (y ++ [',', ' ']))),
    asmOperands, if_neg (by simp), AsmPiece.split_append fun c hc => (hx.2 c hc).2, ← List.cons_append,
    AsmPiece.split_append (hcomma hy), AsmPiece.split (hcomma hz)]
  simp [hx.trim, trimSpaces_cons_space, hy.trim, hz.trim]

theorem assembleLine_number {s m x : String} {n : Nat} (hs : s.toList = m.toList ++ [' '])
    (hm : AsmPiece m.toList) (hx : Statement.numberText n x) : assembleLine (s ++ x) = asmOne m n := by
  obtain ⟨hpiece, hnum⟩ := operand_of_numberText hx
  have hline : s ++ x = String.ofList (m.toList ++ ' ' :: x.toList) := by
    simp [← String.toList_inj, hs]
  rw [hline, assembleLine_one hm hpiece, hnum, String.ofList_toList]
  rfl

theorem assembleLine_gfMul {x y : String} {a b : Nat} (hx : Statement.numberText a x)
    (hy : Statement.numberText b y) : assembleLine ("gf_mul " ++ x ++ ", " ++ y) = asmTwo "gf_mul" a b := by
  obtain ⟨hxpiece, hxnum⟩ := operand_of_numberText hx
  obtain ⟨hypiece, hynum⟩ := operand_of_numberText hy
  have hline : "gf_mul " ++ x ++ ", " ++ y
      = String.ofList ("gf_mul".toList ++ ' ' :: (x.toList ++ ',' :: ' ' :: y.toList)) := by
    simp [← String.toList_inj]
  rw [hline, assembleLine_two (.of_check rfl) hxpiece hypiece, hxnum, hynum, String.ofList_toList]
  rfl

/-! ### The names of MODE_INIT -/

theorem operand_modeText (m : Mode) :
    AsmPiece (Statement.modeText m).toList ∧
      asmOperand (Statement.modeText m).toList = .name (Statement.modeText m) ∧
      asmMode (Statement.modeText m) = some m := by
  cases m <;> exact ⟨.of_check rfl, rfl, rfl⟩

theorem operand_dirText (d : Dir) :
    AsmPiece (Statement.dirText d).toList ∧
      asmOperand (Statement.dirText d).toList = .name (Statement.dirText d) ∧
      asmDir (Statement.dirText d) = some d := by
  cases d <;> exact ⟨.of_check rfl, rfl, rfl⟩

theorem operand_opText (f : BlockOp) :
    AsmPiece (Statement.opText f).toList ∧
      asmOperand (Statement.opText f).toList = .name (Statement.opText f) ∧
      asmBlockOp (Statement.opText f) = some f := by
  cases f <;> exact ⟨.of_check rfl, rfl, rfl⟩

theorem assembleLine_modeInit (m : Mode) (d : Dir) (f : BlockOp) :
    assembleLine ("mode_init " ++ Statement.modeText m ++ ", " ++ Statement.dirText d ++ ", " ++ Statement.opText f)
      = some (.modeInit m d (blockOpBits f)) := by
  obtain ⟨hmpiece, hmname, hmode⟩ := operand_modeText m
  obtain ⟨hdpiece, hdname, hdir⟩ := operand_dirText d
  obtain ⟨hfpiece, hfname, hop⟩ := operand_opText f
  have hline : "mode_init " ++ Statement.modeText m ++ ", " ++ Statement.dirText d ++ ", " ++ Statement.opText f
      = String.ofList ("mode_init".toList ++ ' ' :: ((Statement.modeText m).toList ++ ',' :: ' ' ::
          ((Statement.dirText d).toList ++ ',' :: ' ' :: (Statement.opText f).toList))) := by
    simp [← String.toList_inj]
  rw [hline, assembleLine_three (.of_check rfl) hmpiece hdpiece hfpiece, hmname, hdname, hfname,
    String.ofList_toList, assemble, asmModeInit, if_pos rfl, hmode, hdir, hop]

/-! ### A line assembles to a well-formed command -/

/-- A chain of tests gives only well-formed commands where each of its commands is one. -/
theorem wellFormed_ite {c : Prop} [Decidable c] {x : Instr} {rest : Option Instr} (hx : x.wellFormed = true)
    (hrest : ∀ i ∈ rest, i.wellFormed = true) : ∀ i ∈ (if c then some x else rest), i.wellFormed = true := by
  split
  · rintro i ⟨⟩
    exact hx
  · exact hrest

theorem wellFormed_asmPlain (m : String) : ∀ i ∈ asmPlain m, i.wellFormed = true := by
  unfold asmPlain
  iterate 11 refine wellFormed_ite rfl ?_
  nofun

theorem wellFormed_asmOne (m : String) (n : Nat) : ∀ i ∈ asmOne m n, i.wellFormed = true := by
  unfold asmOne
  iterate 5 refine wellFormed_ite rfl ?_
  nofun

theorem wellFormed_asmTwo (m : String) (a b : Nat) : ∀ i ∈ asmTwo m a b, i.wellFormed = true := by
  unfold asmTwo
  exact wellFormed_ite rfl nofun

theorem wellFormed_asmModeInit (m x d f : String) : ∀ i ∈ asmModeInit m x d f, i.wellFormed = true := by
  intro i h
  unfold asmModeInit at h
  split at h
  case isTrue =>
    split at h
    case h_1 mode dir op _ _ _ =>
      obtain rfl := Option.some.inj h
      cases op <;> rfl
    case h_2 => cases h
  case isFalse => cases h

theorem wellFormed_assemble (m : String) (args : List AsmOperand) : ∀ i ∈ assemble m args, i.wellFormed = true := by
  unfold assemble
  split
  case h_1 => exact wellFormed_asmPlain m
  case h_2 n => exact wellFormed_asmOne m n
  case h_3 a b => exact wellFormed_asmTwo m a b
  case h_4 x d f => exact wellFormed_asmModeInit m x d f
  case h_5 => nofun

theorem wellFormed_assembleLine {line : String} {i : Instr} (h : assembleLine line = some i) :
    i.wellFormed = true := by
  unfold assembleLine at h
  exact wellFormed_assemble _ _ i h

theorem assembleWord_of_line {line : String} {i : Instr} (h : assembleLine line = some i) :
    assembleWord line = some (encode i) := by
  rw [assembleWord, h, Option.map_some]

/-! ### The numbers of a line at the values of their operands -/

theorem assembleLine_rounds {rnd : BitVec 4} {x : String} (hx : Statement.numberText rnd.toNat x) :
    assembleLine ("add_round_key " ++ x) = some (.addRoundKey rnd) ∧
    assembleLine ("enc_round " ++ x) = some (.encRound rnd) ∧
    assembleLine ("dec_round " ++ x) = some (.decRound rnd) := by
  have hlt := rnd.isLt
  rw [assembleLine_number (m := "add_round_key") rfl (.of_check rfl) hx,
    assembleLine_number (m := "enc_round") rfl (.of_check rfl) hx,
    assembleLine_number (m := "dec_round") rfl (.of_check rfl) hx]
  simp [asmOne, hlt]

theorem assembleLine_sboxes {a : Byte} {x : String} (hx : Statement.numberText a.toNat x) :
    assembleLine ("sbox_read " ++ x) = some (.sboxRead a) ∧
    assembleLine ("inv_sbox_read " ++ x) = some (.invSboxRead a) := by
  have hlt := a.isLt
  rw [assembleLine_number (m := "sbox_read") rfl (.of_check rfl) hx,
    assembleLine_number (m := "inv_sbox_read") rfl (.of_check rfl) hx]
  simp [asmOne, hlt]

/-- Settles O5: the lines with no operand, one number, two numbers and three names; then what a line can give. -/
theorem everyCommandHasItsAssemblerLine : Obligations.EveryCommandHasItsAssemblerLine := by
  refine ⟨?plain, fun rnd x hx => assembleLine_rounds hx, fun a b x y hx hy => ⟨?gfMul, assembleLine_sboxes hx⟩,
    assembleLine_modeInit, fun line i h => ⟨wellFormed_assembleLine h, assembleWord_of_line h⟩⟩
  case plain => and_intros <;> exact assembleLine_plain (.of_check rfl)
  case gfMul =>
    rw [assembleLine_gfMul hx hy]
    simp [asmTwo, a.isLt, b.isLt]

end Sys2Proof.Machine
end

section
/-! SUPPORT. Multiplication in GF(2^8) (40_gf_and_tables.md R80, R81): the loop adds its products to the accumulator,
so it is additive in both operands, and a law of two additive functions is checked at the powers of two. -/

namespace Sys2Proof.Machine

/-! ### A property that XOR keeps, checked at the powers of two -/

theorem setWidth_succ_eq_xor {w : Nat} (x : BitVec w) (n : Nat) :
    (x.setWidth (n + 1)).setWidth w =
      (x.setWidth n).setWidth w ^^^ if x.getLsbD n then BitVec.twoPow w n else 0 := by
  ext i hi
  have bit : (if x.getLsbD n then BitVec.twoPow w n else 0)[i] = (x.getLsbD n && decide (i = n)) := by
    split <;> simp_all [BitVec.getElem_twoPow, eq_comm]
  rw [BitVec.getElem_xor, bit]
  simp only [BitVec.getElem_setWidth, BitVec.getLsbD_setWidth]
  obtain hlt | rfl | hgt := Nat.lt_trichotomy i n
  · simp [hlt, Nat.lt_succ_of_lt hlt, Nat.ne_of_lt hlt]
  · simp
  · simp [Nat.not_lt_of_gt hgt, Nat.not_lt.2 (Nat.succ_le_of_lt hgt), Nat.ne_of_gt hgt]

/-- Every word is an XOR of powers of two. -/
theorem xor_induction {w : Nat} {P : BitVec w → Prop} (zero : P 0) (xor : ∀ x y, P x → P y → P (x ^^^ y))
    (twoPow : ∀ i : Fin w, P (BitVec.twoPow w i)) (x : BitVec w) : P x := by
  have truncated : ∀ n, n ≤ w → P ((x.setWidth n).setWidth w) := by
    intro n
    induction n with
    | zero =>
      intro _
      rw [BitVec.of_length_zero (x := x.setWidth 0), BitVec.setWidth_zero]
      exact zero
    | succ n ih =>
      intro hn
      rw [setWidth_succ_eq_xor]
      refine xor _ _ (ih (by omega)) ?_
      split
      · exact twoPow ⟨n, hn⟩
      · exact zero
  simpa using truncated w (Nat.le_refl w)

/-- A function of bytes that takes XOR to XOR: a linear map of GF(2)^8. -/
def XorAdditive (f : Byte → Byte) : Prop :=
  ∀ x y, f (x ^^^ y) = f x ^^^ f y

theorem XorAdditive.map_zero {f : Byte → Byte} (hf : XorAdditive f) : f 0 = 0 := by
  have h := hf 0 0
  rwa [BitVec.xor_self, BitVec.xor_self] at h

/-- Two such functions are equal where they agree at the eight powers of two. -/
theorem XorAdditive.eq_of_twoPow {f g : Byte → Byte} (hf : XorAdditive f) (hg : XorAdditive g)
    (h : ∀ i : Fin 8, f (BitVec.twoPow 8 i) = g (BitVec.twoPow 8 i)) (x : Byte) : f x = g x :=
  xor_induction (P := fun x => f x = g x) (hf.map_zero.trans hg.map_zero.symm)
    (fun x y hx hy => by rw [hf, hg, hx, hy]) h x

/-! ### The loop of R80 -/

/-- A summand taken where a bit is set, at the XOR of two bits. -/
theorem ite_xor {w : Nat} (p q : Bool) (c : BitVec w) :
    (if p ^^ q then c else 0) = (if p then c else 0) ^^^ if q then c else 0 := by
  cases p <;> cases q <;> simp

theorem xtime_eq (a : Byte) : xtime a = (a <<< 1) ^^^ if a.getLsbD 7 then 0x1B#8 else 0 := by
  unfold xtime
  split <;> simp

theorem xtime_xor : XorAdditive xtime := by
  intro x y
  rw [xtime_eq, xtime_eq, xtime_eq, BitVec.shiftLeft_xor_distrib, BitVec.getLsbD_xor, ite_xor]
  ac_rfl

/-- The accumulator is a summand of the result. -/
theorem gmulLoop_accumulator (n : Nat) (a b p q : Byte) :
    gmulLoop n a b (p ^^^ q) = p ^^^ gmulLoop n a b q := by
  induction n generalizing a b q with
  | zero => rfl
  | succ n ih =>
    rw [gmulLoop, gmulLoop, ← ih]
    split
    · rw [BitVec.xor_assoc]
    · rfl

/-- One turn of the loop, with the accumulator taken out. -/
theorem gmulLoop_succ (n : Nat) (a b : Byte) :
    gmulLoop (n + 1) a b 0 = (if b.getLsbD 0 then a else 0) ^^^ gmulLoop n (xtime a) (b >>> 1) 0 := by
  rw [← gmulLoop_accumulator, gmulLoop]
  split <;> simp

theorem gmulLoop_xor_left (n : Nat) (x y b : Byte) :
    gmulLoop n (x ^^^ y) b 0 = gmulLoop n x b 0 ^^^ gmulLoop n y b 0 := by
  induction n generalizing x y b with
  | zero => exact BitVec.xor_self.symm
  | succ n ih =>
    rw [gmulLoop_succ, gmulLoop_succ, gmulLoop_succ, xtime_xor, ih]
    split
    · ac_rfl
    · simp

theorem gmulLoop_xor_right (n : Nat) (a x y : Byte) :
    gmulLoop n a (x ^^^ y) 0 = gmulLoop n a x 0 ^^^ gmulLoop n a y 0 := by
  induction n generalizing a x y with
  | zero => exact BitVec.xor_self.symm
  | succ n ih =>
    rw [gmulLoop_succ, gmulLoop_succ, gmulLoop_succ, BitVec.ushiftRight_xor_distrib, ih,
      BitVec.getLsbD_xor, ite_xor]
    ac_rfl

theorem gmulLoop_zero_right (n : Nat) (a p : Byte) : gmulLoop n a 0 p = p := by
  induction n generalizing a with
  | zero => rfl
  | succ n ih => exact ih (xtime a)

theorem gmulLoop_one_right (n : Nat) (a : Byte) : gmulLoop (n + 1) a 1 0 = a :=
  (gmulLoop_zero_right n (xtime a) (0 ^^^ a)).trans BitVec.zero_xor

/-! ### The laws of R81 -/

theorem gmul_xor_left (b : Byte) : XorAdditive fun a => gmul a b :=
  fun x y => gmulLoop_xor_left 8 x y b

theorem gmul_xor_right (a : Byte) : XorAdditive (gmul a) :=
  gmulLoop_xor_right 8 a

theorem gmul_twoPow_comm : ∀ i j : Fin 8,
    gmul (BitVec.twoPow 8 i) (BitVec.twoPow 8 j) = gmul (BitVec.twoPow 8 j) (BitVec.twoPow 8 i) := by
  decide

theorem gmul_comm (a b : Byte) : gmul a b = gmul b a :=
  XorAdditive.eq_of_twoPow (gmul_xor_right a) (gmul_xor_left a)
    (fun j => XorAdditive.eq_of_twoPow (gmul_xor_left _) (gmul_xor_right _) (fun i => gmul_twoPow_comm i j) a) b

@[simp] theorem gmul_zero (a : Byte) : gmul a 0 = 0 :=
  gmulLoop_zero_right 8 a 0

@[simp] theorem gmul_one (a : Byte) : gmul a 1 = a :=
  gmulLoop_one_right 7 a

/-- Multiplication by 2 is the step of R80. -/
theorem gmul_two (a : Byte) : gmul a 2 = xtime a := by
  rw [gmul, gmulLoop_succ]
  exact BitVec.zero_xor.trans (gmulLoop_one_right 6 (xtime a))

/-- Settles O17: commutativity and distributivity from additivity, the rest from a loop whose multiplier is used up. -/
theorem gfMultiplicationLaws : Obligations.GfMultiplicationLaws :=
  ⟨gmul_comm, gmul_xor_right, gmul_one, gmul_zero, gmul_two⟩

end Sys2Proof.Machine
end

section
/-! SUPPORT. The three commands of the GF(2^8) unit complete with their byte in GFR (40_gf_and_tables.md R90 to R92). -/

namespace Sys2Proof.Statement

open Sys2Proof Sys2Proof.Machine

theorem gfrWord_eq_setWidth (s : State) : gfrWord s = s.gfr.setWidth 32 :=
  (BitVec.setWidth_eq_append (by decide)).symm

theorem exec_gfMul {s : State} (h : s.err = 0) (a b : Byte) :
    exec (.gfMul a b) s = .next { s with gfr := gmul a b } :=
  exec_runs h rfl

theorem exec_sboxRead {s : State} (h : s.err = 0) (a : Byte) :
    exec (.sboxRead a) s = .next { s with gfr := sbox a } :=
  exec_runs h rfl

theorem exec_invSboxRead {s : State} (h : s.err = 0) (a : Byte) :
    exec (.invSboxRead a) s = .next { s with gfr := invSbox a } :=
  exec_runs h rfl

/-- Settles O18: each command's effect is an update of GFR. -/
theorem gfUnitCommandsWriteGfr : Obligations.GfUnitCommandsWriteGfr := fun s a b h =>
  ⟨⟨_, exec_gfMul h a b, gfrWord_eq_setWidth _, keeps_gfr s _⟩,
    ⟨_, exec_sboxRead h a, gfrWord_eq_setWidth _, keeps_gfr s _⟩,
    ⟨_, exec_invSboxRead h a, gfrWord_eq_setWidth _, keeps_gfr s _⟩⟩

/-- Settles O19: the second read looks up the first one's entry in the table that undoes it. -/
theorem sboxReadsInvertEachOther : Obligations.SboxReadsInvertEachOther := by
  intro s t u a h
  constructor
  case left =>
    intro ht hu
    obtain rfl := Host.Outcome.next.inj ((exec_sboxRead h a).symm.trans ht)
    obtain rfl := Host.Outcome.next.inj ((exec_invSboxRead (s := { s with gfr := sbox a }) h _).symm.trans hu)
    exact invSbox_sbox a
  case right =>
    intro ht hu
    obtain rfl := Host.Outcome.next.inj ((exec_invSboxRead h a).symm.trans ht)
    obtain rfl := Host.Outcome.next.inj ((exec_sboxRead (s := { s with gfr := invSbox a }) h _).symm.trans hu)
    exact sbox_invSbox a

end Sys2Proof.Statement
end

section
/-! SUPPORT. The state transforms (41_state_transforms.md): the columns a matrix of R108 or R110 makes are products
of polynomials modulo `x^4 + 1`, so the two matrices undo each other because their polynomials have product 1. -/

namespace Sys2Proof.Machine

/-! ### Multiplication in GF(2^8) is associative -/

theorem gmulLoop_xtime (n : Nat) (a b : Byte) : gmulLoop n (xtime a) b 0 = xtime (gmulLoop n a b 0) := by
  induction n generalizing a b with
  | zero => exact xtime_xor.map_zero.symm
  | succ n ih =>
    rw [gmulLoop_succ, gmulLoop_succ, xtime_xor, ih]
    split <;> rfl

theorem gmul_xtime_right (a b : Byte) : gmul a (xtime b) = xtime (gmul a b) := by
  rw [gmul_comm a, gmul_comm a]
  exact gmulLoop_xtime 8 b a

/-- A factor passes into the multiplicand of the loop of R80. -/
theorem gmul_gmulLoop (n : Nat) (a b c : Byte) : gmul a (gmulLoop n b c 0) = gmulLoop n (gmul a b) c 0 := by
  induction n generalizing b c with
  | zero => exact gmul_zero a
  | succ n ih =>
    rw [gmulLoop_succ, gmulLoop_succ, gmul_xor_right, ih, gmul_xtime_right]
    split
    · rfl
    · rw [gmul_zero]

theorem gmul_assoc (a b c : Byte) : gmul (gmul a b) c = gmul a (gmul b c) :=
  (gmul_gmulLoop 8 a b c).symm

@[simp] theorem gmul_zero_left (a : Byte) : gmul 0#8 a = 0 :=
  (gmul_comm 0 a).trans (gmul_zero a)

@[simp] theorem gmul_one_left (a : Byte) : gmul 1#8 a = a :=
  (gmul_comm 1 a).trans (gmul_one a)

/-! ### Columns as polynomials modulo `x^4 + 1` -/

/-- The product of two columns, byte `a_k` the coefficient of `x^k`: the circulant matrix with first column `p`
times the column `a`. -/
def columnMul (p a : Column) : Column :=
  ⟨gmul p.a0 a.a0 ^^^ gmul p.a3 a.a1 ^^^ gmul p.a2 a.a2 ^^^ gmul p.a1 a.a3,
   gmul p.a1 a.a0 ^^^ gmul p.a0 a.a1 ^^^ gmul p.a3 a.a2 ^^^ gmul p.a2 a.a3,
   gmul p.a2 a.a0 ^^^ gmul p.a1 a.a1 ^^^ gmul p.a0 a.a2 ^^^ gmul p.a3 a.a3,
   gmul p.a3 a.a0 ^^^ gmul p.a2 a.a1 ^^^ gmul p.a1 a.a2 ^^^ gmul p.a0 a.a3⟩

theorem columnMul_assoc (p q a : Column) : columnMul (columnMul p q) a = columnMul p (columnMul q a) := by
  have left (x y b : Byte) : gmul (x ^^^ y) b = gmul x b ^^^ gmul y b := gmul_xor_left b x y
  have right (b x y : Byte) : gmul b (x ^^^ y) = gmul b x ^^^ gmul b y := gmul_xor_right b x y
  simp only [columnMul, left, right, gmul_assoc, Quad.mk.injEq]
  refine ⟨?_, ?_, ?_, ?_⟩ <;> ac_rfl

theorem columnMul_one (a : Column) : columnMul ⟨1, 0, 0, 0⟩ a = a := by
  simp [columnMul]

/-- Every row of the matrix is the first one, turned. -/
theorem quadGet_columnMul (p a : Column) (r : Fin 4) :
    quadGet (columnMul p a) r = gmul p.a0 (quadGet a r) ^^^ gmul p.a3 (quadGet a (r + 1))
      ^^^ gmul p.a2 (quadGet a (r + 2)) ^^^ gmul p.a1 (quadGet a (r + 3)) := by
  revert r
  refine forall_fin_four ?_ ?_ ?_ ?_ <;> simp [columnMul] <;> ac_rfl

/-- The polynomial of MixColumns: `{03} x^3 + x^2 + x + {02}` (R108). -/
def mixPoly : Column := ⟨2, 1, 1, 3⟩

/-- The polynomial of InvMixColumns: `{0B} x^3 + {0D} x^2 + {09} x + {0E}` (R110). -/
def invMixPoly : Column := ⟨0x0E, 0x09, 0x0D, 0x0B⟩

theorem mixColumn_eq_columnMul : mixColumn = columnMul mixPoly := by
  funext a
  simp [mixColumn, columnMul, mixPoly]

theorem invMixColumn_eq_columnMul : invMixColumn = columnMul invMixPoly := rfl

theorem columnMul_cancel {p q : Column} (h : columnMul p q = ⟨1, 0, 0, 0⟩) (a : Column) :
    columnMul p (columnMul q a) = a := by
  rw [← columnMul_assoc, h, columnMul_one]

theorem invMixColumn_mixColumn (a : Column) : invMixColumn (mixColumn a) = a := by
  rw [mixColumn_eq_columnMul, invMixColumn_eq_columnMul]
  exact columnMul_cancel (by decide) a

theorem mixColumn_invMixColumn (a : Column) : mixColumn (invMixColumn a) = a := by
  rw [mixColumn_eq_columnMul, invMixColumn_eq_columnMul]
  exact columnMul_cancel (by decide) a

/-! ### The transforms by the state view -/

theorem cell_mapColumnMul (p : Column) (b : Block) (r c : Nat) :
    cell (quadMap (columnMul p) b) r c = gmul p.a0 (cell b r c) ^^^ gmul p.a3 (cell b (r + 1) c)
      ^^^ gmul p.a2 (cell b (r + 2) c) ^^^ gmul p.a1 (cell b (r + 3) c) := by
  have turn (k : Nat) : Fin.ofNat 4 (r + k) = Fin.ofNat 4 r + Fin.ofNat 4 k := Fin.ext (Nat.add_mod r k 4)
  simp only [cell, quadGet_quadMap, quadGet_columnMul, turn]
  rfl

theorem cell_mixColumns (b : Block) (r c : Nat) :
    cell (mixColumns b) r c = gmul 2 (cell b r c) ^^^ gmul 3 (cell b (r + 1) c)
      ^^^ cell b (r + 2) c ^^^ cell b (r + 3) c := by
  rw [mixColumns, mixColumn_eq_columnMul, cell_mapColumnMul]
  simp [mixPoly]

theorem cell_invMixColumns (b : Block) (r c : Nat) :
    cell (invMixColumns b) r c = gmul 0x0E (cell b r c) ^^^ gmul 0x0B (cell b (r + 1) c)
      ^^^ gmul 0x0D (cell b (r + 2) c) ^^^ gmul 0x09 (cell b (r + 3) c) := by
  rw [invMixColumns, invMixColumn_eq_columnMul, cell_mapColumnMul]
  rfl

theorem cell_shiftRows (b : Block) {r c : Nat} (hr : r < 4) (hc : c < 4) :
    cell (shiftRows b) r c = cell b r ((c + r) % 4) :=
  cell_blockOfCells _ r c hr hc

theorem cell_invShiftRows (b : Block) {r c : Nat} (hr : r < 4) (hc : c < 4) :
    cell (invShiftRows b) r c = cell b r ((c + 4 - r) % 4) :=
  cell_blockOfCells _ r c hr hc

/-! ### Each transform and its inverse -/

theorem quadMap_cancel {α : Type} {f g : α → α} (h : ∀ x, g (f x) = x) (q : Quad α) :
    quadMap g (quadMap f q) = q :=
  quad_ext fun j => by rw [quadGet_quadMap, quadGet_quadMap, h]

theorem blockMap_cancel {f g : Byte → Byte} (h : ∀ x, g (f x) = x) (b : Block) : blockMap g (blockMap f b) = b :=
  quadMap_cancel (quadMap_cancel h) b

theorem invShiftRows_shiftRows (b : Block) : invShiftRows (shiftRows b) = b := by
  refine block_ext_cell fun r c hr hc => ?_
  have turned : ((c + 4 - r) % 4 + r) % 4 = c := by omega
  rw [cell_invShiftRows _ hr hc, cell_shiftRows _ hr (Nat.mod_lt _ (by decide)), turned]

theorem shiftRows_invShiftRows (b : Block) : shiftRows (invShiftRows b) = b := by
  refine block_ext_cell fun r c hr hc => ?_
  have turned : ((c + r) % 4 + 4 - r) % 4 = c := by omega
  rw [cell_shiftRows _ hr hc, cell_invShiftRows _ hr (Nat.mod_lt _ (by decide)), turned]

/-- Settles O24: byte by byte, row by row and column by column. -/
theorem transformsInvertEachOther : Obligations.TransformsInvertEachOther := fun b k =>
  ⟨blockMap_cancel invSbox_sbox b, blockMap_cancel sbox_invSbox b,
    invShiftRows_shiftRows b, shiftRows_invShiftRows b,
    quadMap_cancel invMixColumn_mixColumn b, quadMap_cancel mixColumn_invMixColumn b,
    xorBlock_cancel b k⟩

end Sys2Proof.Machine
end

section
/-! SUPPORT. The commands on STATE (41_state_transforms.md): each writes a function of STATE to STATE, and those that
name a round first check its index and the round keys. -/

namespace Sys2Proof.Statement

open Sys2Proof Sys2Proof.Machine

/-! ### Commands that complete -/

/-- A command whose effect maps STATE leaves the image there, and changes no other register. -/
theorem exec_mapState {i : Instr} {s : State} {f : Block → Block} {P : Block → Prop} (h : s.err = 0)
    (hc : firstError (checksOf i s) = none) (he : effectOf i s = s.mapState f) (hP : P (f (s.block .state))) :
    ∃ t b, exec i s = .next t ∧ holds t .state b ∧ P b ∧ keeps s t (inReg .state) :=
  ⟨s.mapState f, f (s.block .state), he ▸ exec_runs h hc, holds_putBlock s .state _, hP, keeps_mapState s f⟩

/-- Settles O20: both maps act byte by byte. -/
theorem substitutionCommands : Obligations.SubstitutionCommands := fun _ h =>
  ⟨exec_mapState h rfl rfl fun i _ => byteAt_blockMap sbox _ i,
    exec_mapState h rfl rfl fun i _ => byteAt_blockMap invSbox _ i⟩

/-- Settles O21: byte `4c + r` is row `r` of column `c`, and a turn back by `r` places undoes one forth. -/
theorem rowShiftCommands : Obligations.RowShiftCommands := by
  refine fun s h => ⟨exec_mapState h rfl rfl fun r c hr hc => ?_, exec_mapState h rfl rfl fun r c hr hc => ?_⟩
  · rw [← cell_eq_byteAt _ r c hr, ← cell_eq_byteAt _ r _ hr, cell_shiftRows _ hr hc]
  · have turned : ((c + r) % 4 + 4 - r) % 4 = c := by omega
    rw [← cell_eq_byteAt _ r _ hr, ← cell_eq_byteAt _ r c hr,
      cell_invShiftRows _ hr (Nat.mod_lt _ (by decide)), turned]

/-- Settles O22: both maps are a product of each column with the polynomial of their matrix. -/
theorem columnMixCommands : Obligations.ColumnMixCommands := fun _ h =>
  ⟨exec_mapState h rfl rfl fun r c _ _ => cell_mixColumns _ r c,
    exec_mapState h rfl rfl fun r c _ _ => cell_invMixColumns _ r c⟩

/-! ### Commands that name a round -/

/-- RANGE comes first, then LENGTH (60_exceptions.md R215). -/
theorem firstError_roundChecks (rnd : BitVec 4) (s : State) :
    firstError (roundChecks rnd s) =
      if 10 < rnd.toNat then some .roundIndex else if s.rkCount ≠ 11 then some .roundKeyCount else none := by
  simp [roundChecks, badRoundIndex, badRoundKeyCount, firstError_cons, firstError_nil]

theorem firstError_roundChecks_badIndex {rnd : BitVec 4} (hr : 10 < rnd.toNat) (s : State) :
    firstError (roundChecks rnd s) = some .roundIndex := by
  rw [firstError_roundChecks, if_pos hr]

theorem firstError_roundChecks_badCount {rnd : BitVec 4} {s : State} (hr : rnd.toNat ≤ 10)
    (hk : s.rkCount ≠ 11) : firstError (roundChecks rnd s) = some .roundKeyCount := by
  rw [firstError_roundChecks, if_neg hr.not_gt, if_pos hk]

theorem firstError_roundChecks_pass {rnd : BitVec 4} {s : State} (hr : rnd.toNat ≤ 10)
    (hk : s.rkCount = 11) : firstError (roundChecks rnd s) = none := by
  rw [firstError_roundChecks, if_neg hr.not_gt, if_neg (not_not.2 hk)]

/-- The columns of `RK[r]` are four consecutive words of the round-key file (10_state.md R17). -/
theorem quadGet_roundKey (s : State) (r : Nat) (c : Fin 4) :
    quadGet (s.roundKey r) c = s.roundWord (Fin.ofNat 44 (4 * r + c.val)) := by
  revert c
  exact forall_fin_four rfl rfl rfl rfl

theorem byteAt_roundKey (s : State) (r : Nat) {i : Nat} (hi : i < 16) :
    byteAt (s.roundKey r) i = quadGet (s.roundWord (Fin.ofNat 44 (4 * r + i / 4))) (Fin.ofNat 4 (i % 4)) := by
  have hcol : (Fin.ofNat 4 (i / 4)).val = i / 4 := Nat.mod_eq_of_lt (by omega)
  rw [byteAt, cell, quadGet_roundKey, hcol]

/-- Settles O23: the checks pass, and byte `i` of `RK[RND]` is a byte of the round-key file. -/
theorem addRoundKeyCommand : Obligations.AddRoundKeyCommand := by
  intro s rnd h hr hk
  refine exec_mapState (f := fun b => addRoundKey b (s.roundKey rnd.toNat)) h (firstError_roundChecks_pass hr hk) rfl
    fun i hi => ?_
  rw [addRoundKey, byteAt_xorBlock, byteAt_roundKey s _ hi]

/-- A command records its first failing check, and nothing else (60_exceptions.md R212, R215). -/
theorem failsWith_of_firstError {i : Instr} {s : State} {c : Cause} (h : s.err = 0)
    (hc : firstError (checksOf i s) = some c) : failsWith i s (causeCode c).toNat (causeInfo c).toNat :=
  ⟨s.raise (opcOf i) c, exec_fails h hc, statusWord_eq _, keeps_raise s _ c⟩

/-- The three commands that name a round make the same checks (R113, R135, R136). -/
theorem checksOf_roundCommand {i : Instr} {rnd : BitVec 4}
    (hi : i = .addRoundKey rnd ∨ i = .encRound rnd ∨ i = .decRound rnd) (s : State) :
    checksOf i s = roundChecks rnd s := by
  obtain rfl | rfl | rfl := hi <;> rfl

/-- Settles O25: RANGE is the first check, LENGTH the second. -/
theorem roundCommandErrors : Obligations.RoundCommandErrors := by
  intro s rnd i h hi
  have checks := congrArg firstError (checksOf_roundCommand hi s)
  constructor
  · intro hr
    exact failsWith_of_firstError (c := .roundIndex) h (checks.trans (firstError_roundChecks_badIndex hr s))
  · intro hr hk
    exact failsWith_of_firstError (c := .roundKeyCount) h (checks.trans (firstError_roundChecks_badCount hr hk))

end Sys2Proof.Statement
end

section
/-! SUPPORT. The key schedule (42_key_schedule.md R122): a step of the expansion writes its own word and no word
before it, so every word of the finished file follows the recurrence. -/

namespace Sys2Proof.Machine

/-! ### The `temp` of a word -/

theorem scheduleTemp_of_mod_ne_zero {i : Nat} (h : i % 4 ≠ 0) (prev : Column) : scheduleTemp prev i = prev :=
  if_neg h

theorem scheduleTemp_of_mod_eq_zero {i : Nat} (h : i % 4 = 0) (prev : Column) :
    scheduleTemp prev i = ⟨sbox prev.a1 ^^^ rcon (i / 4), sbox prev.a2, sbox prev.a3, sbox prev.a0⟩ :=
  if_pos h

/-! ### The steps of the expansion -/

theorem wordAt_scheduleStep_self (w : Vector Column 44) (i : Nat) :
    wordAt (scheduleStep w i) i = xorColumn (wordAt w (i - 4)) (scheduleTemp (wordAt w (i - 1)) i) := by
  simp [wordAt, scheduleStep]

theorem wordAt_scheduleStep_of_lt (w : Vector Column 44) {i j : Nat} (hj : j < i) (hi : i < 44) :
    wordAt (scheduleStep w i) j = wordAt w j := by
  have hne : i % 44 ≠ j % 44 := by omega
  exact Vector.getElem_set_ne _ _ hne

/-- Steps at later words leave a word as it is. -/
theorem wordAt_foldl_scheduleStep {l : List Nat} {j : Nat} (hl : ∀ i ∈ l, j < i ∧ i < 44) (w : Vector Column 44) :
    wordAt (l.foldl scheduleStep w) j = wordAt w j := by
  induction l generalizing w with
  | nil => rfl
  | cons i rest ih =>
    obtain ⟨⟨hj, hi⟩, hrest⟩ := List.forall_mem_cons.1 hl
    rw [List.foldl_cons, ih hrest, wordAt_scheduleStep_of_lt w hj hi]

/-! ### The finished file -/

/-- The steps before word `i` leave some file, from which step `i` and the later ones make the finished one. -/
theorem keyExpansion_eq_foldl_from (key : Block) {i : Nat} (h4 : 4 ≤ i) (hi : i < 44) :
    ∃ w, keyExpansion key = (List.range' (i + 1) (43 - i)).foldl scheduleStep (scheduleStep w i) := by
  have hsteps : List.range' 4 40 = List.range' 4 (i - 4) ++ i :: List.range' (i + 1) (43 - i) := by
    have hstart : 4 + 1 * (i - 4) = i := by omega
    have hcount : i - 4 + (43 - i + 1) = 40 := by omega
    rw [← List.range'_succ, ← hcount, ← List.range'_append, hstart]
  exact ⟨_, by rw [keyExpansion, hsteps, List.foldl_append, List.foldl_cons]⟩

/-- The recurrence of R122 on the finished file: step `i` finds the words it reads as they stay. -/
theorem wordAt_keyExpansion (key : Block) {i : Nat} (h4 : 4 ≤ i) (hi : i < 44) :
    wordAt (keyExpansion key) i = xorColumn (wordAt (keyExpansion key) (i - 4))
      (scheduleTemp (wordAt (keyExpansion key) (i - 1)) i) := by
  obtain ⟨w, hw⟩ := keyExpansion_eq_foldl_from key h4 hi
  have later : ∀ j, j ≤ i → wordAt (keyExpansion key) j = wordAt (scheduleStep w i) j := fun j hj => by
    rw [hw]
    exact wordAt_foldl_scheduleStep (fun k hk => by rw [List.mem_range'_1] at hk; omega) _
  have before : ∀ j, j < i → wordAt (keyExpansion key) j = wordAt w j := fun j hj =>
    (later j hj.le).trans (wordAt_scheduleStep_of_lt w hj hi)
  rw [later i le_rfl, wordAt_scheduleStep_self, before (i - 4) (by omega), before (i - 1) (by omega)]

/-- No step writes the words of the key. -/
theorem wordAt_keyExpansion_of_lt (key : Block) {j : Nat} (hj : j < 4) :
    wordAt (keyExpansion key) j = wordAt (scheduleStart key) j :=
  wordAt_foldl_scheduleStep (fun i hi => by rw [List.mem_range'_1] at hi; omega) _

end Sys2Proof.Machine
end

section
/-! SUPPORT. KEY_EXPAND (42_key_schedule.md R124, R125), where it and the block commands raise LENGTH, and which
commands leave the round-key file as it is. -/

namespace Sys2Proof.Statement

open Sys2Proof Sys2Proof.Machine

/-! ### KEY_EXPAND completes -/

theorem followsSchedule_keyExpansion (key : Block) : followsSchedule key (wordAt (keyExpansion key)) := by
  refine ⟨⟨wordAt_keyExpansion_of_lt key (by decide), wordAt_keyExpansion_of_lt key (by decide),
    wordAt_keyExpansion_of_lt key (by decide), wordAt_keyExpansion_of_lt key (by decide)⟩,
    fun i h4 hi => ⟨fun hm => ?_, fun hm => ?_⟩⟩
  · rw [wordAt_keyExpansion key h4 hi, scheduleTemp_of_mod_ne_zero hm]
  · rw [wordAt_keyExpansion key h4 hi, scheduleTemp_of_mod_eq_zero hm]

/-- KEY_LEN is the only thing KEY_EXPAND checks (R124). -/
theorem firstError_badKeyLength (s : State) :
    firstError [badKeyLength s] = if s.keyLen ≠ 16 then some .keyLength else none := by
  simp [badKeyLength, firstError_cons, firstError_nil]

theorem exec_keyExpand {s : State} (h : s.err = 0) (hk : s.keyLen = 16) :
    exec .keyExpand s = .next (effectOf .keyExpand s) :=
  exec_runs h ((firstError_badKeyLength s).trans (if_neg (not_not.2 hk)))

theorem w_effectOf_keyExpand (s : State) :
    (effectOf .keyExpand s).w = Vector.ofFn fun i : Fin 44 => present (keyExpansion (s.block .key))[i] := by
  simp only [effectOf, State.putRoundKeys_w]

theorem roundWord_effectOf_keyExpand (s : State) (i : Fin 44) :
    (effectOf .keyExpand s).roundWord i = (keyExpansion (s.block .key))[i] := by
  simp [State.roundWord, w_effectOf_keyExpand]

/-- Settles O26: the file KEY_EXPAND writes is the expansion of KEY. -/
theorem keyExpandFollowsTheSchedule : Obligations.KeyExpandFollowsTheSchedule := by
  intro s h hk
  refine ⟨_, exec_keyExpand h hk, ?_, fun i => ?_, rfl, keeps_effectOf .keyExpand s⟩
  · simp only [roundWord_effectOf_keyExpand]
    exact followsSchedule_keyExpansion _
  · simp [w_effectOf_keyExpand, present]

/-- Settles O27: the file is the expansion of KEY, the count 11. -/
theorem keyExpandDependsOnKeyAlone : Obligations.KeyExpandDependsOnKeyAlone := by
  intro s s' t t' h h' hk hk' hkey ht ht'
  obtain rfl := Host.Outcome.next.inj ((exec_keyExpand h hk).symm.trans ht)
  obtain rfl := Host.Outcome.next.inj ((exec_keyExpand h' hk').symm.trans ht')
  exact ⟨by rw [w_effectOf_keyExpand, w_effectOf_keyExpand, hkey], rfl⟩

/-! ### Length errors -/

/-- The block length comes first, then the round-key count (60_exceptions.md R215). -/
theorem firstError_blockChecks (s : State) :
    firstError (blockChecks s) =
      if s.dinLen ≠ 16 then some .blockLength else if s.rkCount ≠ 11 then some .roundKeyCount else none := by
  simp [blockChecks, badBlockLength, badRoundKeyCount, firstError_cons, firstError_nil]

/-- The two block commands make the same checks (43_block_engine.md R137, R138). -/
theorem checksOf_blockCommand {i : Instr} (hi : i = .encryptBlock ∨ i = .decryptBlock) (s : State) :
    checksOf i s = blockChecks s := by
  obtain rfl | rfl := hi <;> rfl

/-- Settles O33: each command records the first of its checks that fails. -/
theorem keyAndBlockLengthErrors : Obligations.KeyAndBlockLengthErrors := by
  intro s h
  constructor
  · intro hk
    exact failsWith_of_firstError (c := .keyLength) h ((firstError_badKeyLength s).trans (if_pos hk))
  · intro i hi
    have checks := (congrArg firstError (checksOf_blockCommand hi s)).trans (firstError_blockChecks s)
    constructor
    · intro hd
      exact failsWith_of_firstError (c := .blockLength) h (checks.trans (if_pos hd))
    · intro hd hr
      exact failsWith_of_firstError (c := .roundKeyCount) h
        (checks.trans ((if_neg (not_not.2 hd)).trans (if_pos hr)))

/-! ### What commands leave as it is -/

/-- In any state a command writes STATUS and its row of R30 at most. -/
theorem keeps_of_exec {i : Instr} {s t : State} (ht : exec i s = .next t) :
    keeps s t fun r => r == .status || writesByR30 i s r := by
  obtain ⟨_, _, e⟩ | ⟨_, _, c, _, e⟩ | ⟨_, _, e⟩ := exec_cases i s <;>
    obtain rfl := Host.Outcome.next.inj (e.symm.trans ht)
  case inl => exact keeps_refl s _
  case inr.inl => exact keeps_mono (keeps_raise s _ c) fun r h => by simp [h]
  case inr.inr => exact keeps_mono (keeps_effectOf i s) fun r h => by simp [h]

/-- A frame that spares the words of a data register keeps the register. -/
theorem reg_of_keeps {s t : State} {p : WindowReg → Bool} (h : keeps s t p) {d : DataReg}
    (hp : ∀ j, p (.data d j) = false) : t.reg d = s.reg d :=
  quad_ext fun j => (h.2 (.data d j) (hp j)).1

/-- A frame that spares the words of the round-key file keeps the file. -/
theorem w_of_keeps {s t : State} {p : WindowReg → Bool} (h : keeps s t p)
    (hp : ∀ i, p (.roundWord i) = false) : t.w = s.w :=
  Vector.ext fun i hi => (h.2 (.roundWord ⟨i, hi⟩) (hp ⟨i, hi⟩)).1

theorem writesByR30_roundWord {i : Instr} (hi : i ≠ .keyExpand) (s : State) (k : Fin 44) :
    writesByR30 i s (.roundWord k) = false := by
  cases i with
  | keyExpand => exact absurd rfl hi
  | _ => simp [writesByR30, inReg, inBlkIdx]

theorem writesByR30_rkcnt {i : Instr} (hi : i ≠ .keyExpand) (hi' : i ≠ .softReset) (s : State) :
    writesByR30 i s .rkcnt = false := by
  cases i with
  | keyExpand => exact absurd rfl hi
  | softReset => exact absurd rfl hi'
  | _ => simp [writesByR30, inReg, inBlkIdx]

/-- KEY, DIN and IV are in no row of R30: the host alone writes them (10_state.md R14, R15, R19). -/
theorem writesByR30_hostReg {d : DataReg} (hd : d = .key ∨ d = .din ∨ d = .iv) (i : Instr) (s : State) (j : Fin 4) :
    writesByR30 i s (.data d j) = false := by
  obtain rfl | rfl | rfl := hd <;> cases i <;> simp [writesByR30, inReg, inBlkIdx, inRoundKeys]

/-- Settles O28: what R30 lists for no other command, no other command writes. -/
theorem roundKeysOutliveOtherCommands : Obligations.RoundKeysOutliveOtherCommands := by
  intro i s t ht
  have frame := keeps_of_exec ht
  have hostReg : ∀ d, (d = .key ∨ d = .din ∨ d = .iv) → t.reg d = s.reg d := fun d hd =>
    reg_of_keeps frame (writesByR30_hostReg hd i s)
  exact ⟨fun hi => w_of_keeps frame (writesByR30_roundWord hi s),
    fun hi hi' => (frame.2 .rkcnt (writesByR30_rkcnt hi hi' s)).1,
    hostReg .key (.inl rfl), hostReg .din (.inr (.inl rfl)), hostReg .iv (.inr (.inr rfl))⟩

end Sys2Proof.Statement
end

section
/-! SUPPORT. The forward and the inverse cipher (43_block_engine.md): what a round is by its index (R130, R131), and
that the inner rounds of one, taken back in the other order, undo each other for any round keys (R139). -/

namespace Sys2Proof.Machine

/-! ### A round by its index -/

theorem encRound_first (rk : Nat → Block) (b : Block) : encRound rk b 0 = addRoundKey b (rk 0) := rfl

theorem encRound_inner (rk : Nat → Block) (b : Block) {r : Nat} (hr : 1 ≤ r ∧ r ≤ 9) :
    encRound rk b r = addRoundKey (mixColumns (shiftRows (subBytes b))) (rk r) := by
  rw [encRound, if_neg (by omega), if_pos (by omega)]

theorem encRound_last (rk : Nat → Block) (b : Block) :
    encRound rk b 10 = addRoundKey (shiftRows (subBytes b)) (rk 10) := rfl

theorem decRound_first (rk : Nat → Block) (b : Block) : decRound rk b 10 = addRoundKey b (rk 10) := rfl

theorem decRound_inner (rk : Nat → Block) (b : Block) {r : Nat} (hr : 1 ≤ r ∧ r ≤ 9) :
    decRound rk b r = invMixColumns (addRoundKey (invSubBytes (invShiftRows b)) (rk r)) := by
  rw [decRound, if_neg (by omega), if_pos (by omega)]

theorem decRound_last (rk : Nat → Block) (b : Block) :
    decRound rk b 0 = addRoundKey (invSubBytes (invShiftRows b)) (rk 0) := rfl

/-! ### The keyless half of a round -/

theorem addRoundKey_cancel (b k : Block) : addRoundKey (addRoundKey b k) k = b := xorBlock_cancel b k

theorem invMixColumns_mixColumns (b : Block) : invMixColumns (mixColumns b) = b :=
  quadMap_cancel invMixColumn_mixColumn b

theorem mixColumns_invMixColumns (b : Block) : mixColumns (invMixColumns b) = b :=
  quadMap_cancel mixColumn_invMixColumn b

/-- SubBytes and ShiftRows, which every round but the first of the forward cipher starts with. -/
def substituteShift (b : Block) : Block := shiftRows (subBytes b)

/-- InvShiftRows and InvSubBytes, which every step but the first of the inverse cipher starts with. -/
def unshiftSubstitute (b : Block) : Block := invSubBytes (invShiftRows b)

theorem unshiftSubstitute_substituteShift (b : Block) : unshiftSubstitute (substituteShift b) = b := by
  rw [unshiftSubstitute, substituteShift, invShiftRows_shiftRows]
  exact blockMap_cancel invSbox_sbox b

theorem substituteShift_unshiftSubstitute (b : Block) : substituteShift (unshiftSubstitute b) = b := by
  have bytes : subBytes (invSubBytes (invShiftRows b)) = invShiftRows b := blockMap_cancel sbox_invSbox _
  rw [substituteShift, unshiftSubstitute, bytes, shiftRows_invShiftRows]

/-! ### One round of each cipher -/

/-- The inverse cipher's step with an inner round's key takes back that key and MixColumns: R139 for one round. -/
theorem decRound_encRound (rk : Nat → Block) {r : Nat} (hr : 1 ≤ r ∧ r ≤ 9) (b : Block) :
    decRound rk (substituteShift (encRound rk b r)) r = substituteShift b := by
  rw [decRound_inner rk _ hr, ← unshiftSubstitute, unshiftSubstitute_substituteShift, encRound_inner rk b hr,
    addRoundKey_cancel, invMixColumns_mixColumns, ← substituteShift]

theorem encRound_decRound (rk : Nat → Block) {r : Nat} (hr : 1 ≤ r ∧ r ≤ 9) (b : Block) :
    encRound rk (unshiftSubstitute (decRound rk b r)) r = unshiftSubstitute b := by
  rw [encRound_inner rk _ hr, ← substituteShift, substituteShift_unshiftSubstitute, decRound_inner rk b hr,
    mixColumns_invMixColumns, addRoundKey_cancel, ← unshiftSubstitute]

/-! ### All rounds -/

/-- Steps `g` in the opposite order take steps `f` back under `h`, where each one does so for its own index. -/
theorem foldl_reverse_cancel {α ι : Type} {f g : α → ι → α} {h : α → α} {l : List ι}
    (hl : ∀ r ∈ l, ∀ x, g (h (f x r)) r = h x) (x : α) : l.reverse.foldl g (h (l.foldl f x)) = h x := by
  induction l generalizing x with
  | nil => rfl
  | cons r rest ih =>
    obtain ⟨hr, hrest⟩ := List.forall_mem_cons.1 hl
    simp only [List.reverse_cons, List.foldl_append, List.foldl_cons, List.foldl_nil, ih hrest, hr]

/-- The rounds between the first and the last, in the order of the forward cipher. -/
def innerRounds : List Nat := [1, 2, 3, 4, 5, 6, 7, 8, 9]

theorem mem_innerRounds : ∀ r ∈ innerRounds, 1 ≤ r ∧ r ≤ 9 := by decide

theorem cipher_eq_foldl_innerRounds (rk : Nat → Block) (b : Block) :
    cipher rk b = addRoundKey (substituteShift (innerRounds.foldl (encRound rk) (addRoundKey b (rk 0)))) (rk 10) := rfl

theorem invCipher_eq_foldl_innerRounds (rk : Nat → Block) (b : Block) :
    invCipher rk b =
      addRoundKey (unshiftSubstitute (innerRounds.reverse.foldl (decRound rk) (addRoundKey b (rk 10)))) (rk 0) := rfl

theorem invCipher_cipher (rk : Nat → Block) (b : Block) : invCipher rk (cipher rk b) = b := by
  have inner := foldl_reverse_cancel fun r hr => decRound_encRound rk (mem_innerRounds r hr)
  rw [invCipher_eq_foldl_innerRounds, cipher_eq_foldl_innerRounds, addRoundKey_cancel, inner,
    unshiftSubstitute_substituteShift, addRoundKey_cancel]

theorem cipher_invCipher (rk : Nat → Block) (b : Block) : cipher rk (invCipher rk b) = b := by
  have inner := foldl_reverse_cancel (l := innerRounds.reverse) fun r hr =>
    encRound_decRound rk (mem_innerRounds r (List.mem_reverse.1 hr))
  rw [List.reverse_reverse] at inner
  rw [cipher_eq_foldl_innerRounds, invCipher_eq_foldl_innerRounds, addRoundKey_cancel, inner,
    substituteShift_unshiftSubstitute, addRoundKey_cancel]

/-- Settles O34: from the last round inwards, every step finds the round it undoes. -/
theorem ciphersInvertEachOther : Obligations.CiphersInvertEachOther := fun rk b =>
  ⟨invCipher_cipher rk b, cipher_invCipher rk b⟩

end Sys2Proof.Machine
end

section
/-! SUPPORT. The round and block commands (43_block_engine.md R134 to R138): a block command leaves what its eleven
round commands leave, and CBC decryption undoes encryption because the ciphers undo each other (44_modes.md R165). -/

namespace Sys2Proof.Statement

open Sys2Proof Sys2Proof.Machine

/-! ### Round commands -/

/-- The commands `mk rnd`, once past their checks, map STATE by round `rnd` of `round`. -/
def runsRound (mk : BitVec 4 → Instr) (round : (Nat → Block) → Block → Nat → Block) : Prop :=
  ∀ (s : State) (rnd : BitVec 4), s.err = 0 → rnd.toNat ≤ 10 → s.rkCount = 11 →
    exec (mk rnd) s = .next (s.mapState fun b => round s.roundKey b rnd.toNat)

theorem runsRound_encRound : runsRound .encRound encRound := fun _ _ h hr hk =>
  exec_runs h (firstError_roundChecks_pass hr hk)

theorem runsRound_decRound : runsRound .decRound decRound := fun _ _ h hr hk =>
  exec_runs h (firstError_roundChecks_pass hr hk)

/-- A round command that completes leaves its round of STATE there, and changes no other register. -/
theorem exec_round {mk : BitVec 4 → Instr} {round : (Nat → Block) → Block → Nat → Block} (run : runsRound mk round)
    {s : State} {rnd : BitVec 4} (h : s.err = 0) (hr : rnd.toNat ≤ 10) (hk : s.rkCount = 11) :
    ∃ t, exec (mk rnd) s = .next t ∧ holds t .state (round s.roundKey (s.block .state) rnd.toNat) ∧
      keeps s t (inReg .state) :=
  ⟨_, run s rnd h hr hk, holds_putBlock s .state _, keeps_mapState s _⟩

/-- Settles O29: the three forms of a round of the forward cipher, by its index. -/
theorem encRoundCommand : Obligations.EncRoundCommand := by
  intro s rnd h hr hk
  obtain ⟨t, ht, hstate, hkeeps⟩ := exec_round runsRound_encRound h hr hk
  refine ⟨t, _, ht, hstate, hkeeps, fun h0 => ?_, fun h1 h9 => encRound_inner _ _ ⟨h1, h9⟩, fun h10 => ?_⟩
  · rw [h0, encRound_first]
  · rw [h10, encRound_last]

/-- Settles O30: the three forms of a step of the inverse cipher, by its index. -/
theorem decRoundCommand : Obligations.DecRoundCommand := by
  intro s rnd h hr hk
  obtain ⟨t, ht, hstate, hkeeps⟩ := exec_round runsRound_decRound h hr hk
  refine ⟨t, _, ht, hstate, hkeeps, fun h10 => ?_, fun h1 h9 => decRound_inner _ _ ⟨h1, h9⟩, fun h0 => ?_⟩
  · rw [h10, decRound_first]
  · rw [h0, decRound_last]

/-! ### Rounds in a row -/

theorem putBlock_putBlock (s : State) (r : DataReg) (b c : Block) : (s.putBlock r b).putBlock r c = s.putBlock r c := by
  cases r <;> rfl

theorem mapState_putBlock (s : State) (b : Block) (f : Block → Block) :
    (s.putBlock .state b).mapState f = s.putBlock .state (f b) := by
  rw [State.mapState, State.block_putBlock_self, putBlock_putBlock]

/-- Round commands in a row fold their rounds over STATE. -/
theorem execAll_rounds {mk : BitVec 4 → Instr} {round : (Nat → Block) → Block → Nat → Block} (run : runsRound mk round)
    {s : State} (h : s.err = 0) (hk : s.rkCount = 11) {l : List (BitVec 4)} (hl : ∀ rnd ∈ l, rnd.toNat ≤ 10)
    (b : Block) :
    execAll (l.map mk) (s.putBlock .state b)
      = .next (s.putBlock .state ((l.map BitVec.toNat).foldl (round s.roundKey) b)) := by
  induction l generalizing b with
  | nil => rfl
  | cons rnd rest ih =>
    obtain ⟨hr, hrest⟩ := List.forall_mem_cons.1 hl
    have first : exec (mk rnd) (s.putBlock .state b) = .next (s.putBlock .state (round s.roundKey b rnd.toNat)) := by
      rw [run _ rnd (by simp [h]) hr (by simp [hk]), mapState_putBlock, State.roundKey_putBlock]
    rw [List.map_cons, execAll, first, andThen_next, ih hrest, List.map_cons, List.foldl_cons]

/-! ### Block commands -/

theorem firstError_blockChecks_pass {s : State} (hd : s.dinLen = 16) (hk : s.rkCount = 11) :
    firstError (blockChecks s) = none := by
  rw [firstError_blockChecks, if_neg (not_not.2 hd), if_neg (not_not.2 hk)]

theorem exec_encryptBlock {s : State} (h : s.err = 0) (hd : s.dinLen = 16) (hk : s.rkCount = 11) :
    exec .encryptBlock s = .next (s.blockResult (cipher s.roundKey (s.block .din))) :=
  exec_runs h (firstError_blockChecks_pass hd hk)

theorem exec_decryptBlock {s : State} (h : s.err = 0) (hd : s.dinLen = 16) (hk : s.rkCount = 11) :
    exec .decryptBlock s = .next (s.blockResult (invCipher s.roundKey (s.block .din))) :=
  exec_runs h (firstError_blockChecks_pass hd hk)

theorem holds_state_blockResult (s : State) (y : Block) : holds (s.blockResult y) .state y :=
  holds_of_reg ((State.reg_putOutput_ne _ .state y 16 (by decide)).trans (State.reg_putBlock_self s .state y))

theorem holds_dout_blockResult (s : State) (y : Block) : holds (s.blockResult y) .dout y :=
  holds_of_reg (State.reg_putOutput_self _ y 16)

theorem keepsLengths_blockResult (s : State) (y : Block) : keepsLengths s (s.blockResult y) := by
  simp [keepsLengths, State.blockResult]

theorem roundKey_blockResult (s : State) (y : Block) : (s.blockResult y).roundKey = s.roundKey :=
  State.roundKey_congr (by simp [State.blockResult]) (by simp [State.blockResult])

/-- A command that leaves the fold of eleven rounds over DIN leaves what their round commands leave. -/
theorem blockResult_of_rounds {mk : BitVec 4 → Instr} {round : (Nat → Block) → Block → Nat → Block}
    (run : runsRound mk round) {i : Instr} {s : State} (h : s.err = 0) (hk : s.rkCount = 11) {l : List (BitVec 4)}
    (hl : ∀ rnd ∈ l, rnd.toNat ≤ 10)
    (hi : exec i s = .next (s.blockResult ((l.map BitVec.toNat).foldl (round s.roundKey) (s.block .din)))) :
    ∃ t u b, exec i s = .next t ∧ execAll (l.map mk) (s.putBlock .state (s.block .din)) = .next u ∧
      holds u .state b ∧ holds t .state b ∧ holds t .dout b ∧ t.doutLen = 16 ∧ keepsLengths s t ∧
      keeps s t (fun r => inReg .state r || inReg .dout r || r == .len) :=
  ⟨_, _, _, hi, execAll_rounds run h hk hl _, holds_putBlock s .state _, holds_state_blockResult s _,
    holds_dout_blockResult s _, rfl, keepsLengths_blockResult s _, keeps_blockResult s _⟩

/-- Settles O31: `Cipher` is the fold of the rounds in the order of R132. -/
theorem encryptBlockIsElevenRounds : Obligations.EncryptBlockIsElevenRounds := fun _ h hd hk =>
  blockResult_of_rounds runsRound_encRound h hk (by decide) (exec_encryptBlock h hd hk)

/-- Settles O32: `InvCipher` is the fold of the steps in the order of R133. -/
theorem decryptBlockIsElevenRounds : Obligations.DecryptBlockIsElevenRounds := fun _ h hd hk =>
  blockResult_of_rounds runsRound_decRound h hk (by decide) (exec_decryptBlock h hd hk)

/-- Settles O35: neither command nor the copy touches the round keys, so the two ciphers meet with the same ones. -/
theorem decryptBlockUndoesEncryptBlock : Obligations.DecryptBlockUndoesEncryptBlock := by
  intro s h hd hk
  obtain ⟨hdin, -, -⟩ := keepsLengths_blockResult s (cipher s.roundKey (s.block .din))
  refine ⟨_, _, exec_encryptBlock h hd hk, exec_decryptBlock ?_ ?_ ?_, ?_⟩
  · simp [State.blockResult, h]
  · simp [hdin, hd]
  · simp [State.blockResult, hk]
  · obtain ⟨-, hdout⟩ := holds_dout_blockResult s (cipher s.roundKey (s.block .din))
    rw [State.roundKey_putBlock, roundKey_blockResult, State.block_putBlock_self, hdout, invCipher_cipher]
    exact holds_dout_blockResult _ _

/-! ### MODE_BLOCK in CBC -/

theorem firstError_modeBlockChecks_pass {s : State} (ha : s.active = true) (hl : badModeLength s.mode s.dinLen = false)
    (ho : s.op = .ident ∨ s.rkCount = 11) : firstError (modeBlockChecks s) = none := by
  have keys : opNeedsKeys s.op = true → s.rkCount = 11 := fun hneeds => by
    obtain hop | hk := ho
    · rw [hop] at hneeds
      exact absurd hneeds (by decide)
    · exact hk
  simpa [modeBlockChecks, modeActive, ha, hl, firstError_cons, firstError_nil] using keys

/-- In a block mode MODE_BLOCK runs from a state that is ready for it (44_modes.md R160, R161). -/
theorem exec_modeBlock_of_readyBlock {s : State} (h : readyBlock s) (hm : s.mode = .ecb ∨ s.mode = .cbc) :
    exec .modeBlock s = .next (modeBlockEffect s) := by
  obtain ⟨herr, hact, hlen, hkeys⟩ := h
  have length : badModeLength s.mode s.dinLen = false := by
    obtain hm | hm := hm <;> rw [hm, hlen] <;> rfl
  exact exec_runs herr (firstError_modeBlockChecks_pass hact length hkeys)

theorem modeBlockEffect_cbc_enc {s : State} (hm : s.mode = .cbc) (hd : s.dir = .enc) :
    modeBlockEffect s = cbcEncBlock s := by
  simp [modeBlockEffect, hm, hd]

theorem modeBlockEffect_cbc_dec {s : State} (hm : s.mode = .cbc) (hd : s.dir = .dec) :
    modeBlockEffect s = cbcDecBlock s := by
  simp [modeBlockEffect, hm, hd]

theorem block_dout_modeResult_putChain (s : State) (y out c : Block) :
    ((s.modeResult y out).putBlock .chain c).block .dout = out :=
  State.block_of_reg rfl

theorem block_dout_cbcEncBlock (s : State) :
    (cbcEncBlock s).block .dout = operate s.op s.roundKey (xorBlock (s.block .din) (s.block .chain)) :=
  block_dout_modeResult_putChain s _ _ _

theorem block_chain_cbcEncBlock (s : State) : (cbcEncBlock s).block .chain = (cbcEncBlock s).block .dout :=
  (State.block_putBlock_self _ .chain _).trans (block_dout_cbcEncBlock s).symm

theorem block_dout_cbcDecBlock (s : State) :
    (cbcDecBlock s).block .dout = xorBlock (operate s.op s.roundKey (s.block .din)) (s.block .chain) :=
  block_dout_modeResult_putChain s _ _ _

theorem block_chain_cbcDecBlock (s : State) : (cbcDecBlock s).block .chain = s.block .din :=
  State.block_putBlock_self _ .chain _

/-- Settles O43: `InvCipher` undoes `Cipher`, and the second XOR with the chaining value the first. -/
theorem cbcDecryptionUndoesEncryption : Obligations.CbcDecryptionUndoesEncryption := by
  intro s s' t t' hs hs' hm hd hop hm' hd' hop' hrk hchain ht hdin ht'
  have et : t = cbcEncBlock s := by
    rw [exec_modeBlock_of_readyBlock hs (.inr hm), modeBlockEffect_cbc_enc hm hd] at ht
    exact (Host.Outcome.next.inj ht).symm
  have et' : t' = cbcDecBlock s' := by
    rw [exec_modeBlock_of_readyBlock hs' (.inr hm'), modeBlockEffect_cbc_dec hm' hd'] at ht'
    exact (Host.Outcome.next.inj ht').symm
  subst et et'
  constructor
  · calc (cbcDecBlock s').block .dout
      _ = xorBlock (invCipher s'.roundKey ((cbcEncBlock s).block .dout)) (s.block .chain) := by
        rw [block_dout_cbcDecBlock, hop', hdin, hchain]; rfl
      _ = xorBlock (invCipher s.roundKey (cipher s.roundKey (xorBlock (s.block .din) (s.block .chain))))
            (s.block .chain) := by
        rw [invCipher_congr hrk, block_dout_cbcEncBlock, hop]; rfl
      _ = s.block .din := by rw [invCipher_cipher, xorBlock_cancel]
  · rw [block_chain_cbcDecBlock, hdin, block_chain_cbcEncBlock]

end Sys2Proof.Statement
end

section
/-! SUPPORT. MODE_INIT (44_modes.md R153, R154): its checks by mode, and the context it creates. -/

namespace Sys2Proof.Machine

/-! ### The checks and the effect, for an OP that is a block function -/

theorem checksOf_modeInit (m : Mode) (d : Dir) (f : BlockOp) (s : State) :
    checksOf (.modeInit m d (blockOpBits f)) s = modeInitChecks m s := by
  simp only [checksOf, blockOpOfBits_blockOpBits]

theorem effectOf_modeInit (m : Mode) (d : Dir) (f : BlockOp) (s : State) :
    effectOf (.modeInit m d (blockOpBits f)) s = modeInitEffect m d f s := by
  simp only [effectOf, blockOpOfBits_blockOpBits]

/-- CBC and OFB take an IV of 16 bytes (R153). -/
theorem firstError_modeInitChecks_iv {m : Mode} (hm : m = .cbc ∨ m = .ofb) (s : State) :
    firstError (modeInitChecks m s) = if s.ivLen ≠ 16 then some .ivLength else none := by
  obtain rfl | rfl := hm <;> simp [modeInitChecks, firstError_cons, firstError_nil]

/-- CTR takes a nonce of at most 16 bytes (R153). -/
theorem firstError_modeInitChecks_ctr (s : State) :
    firstError (modeInitChecks .ctr s) = if 16 < s.ivLen.toNat then some .nonceLength else none := by
  simp [modeInitChecks, firstError_cons, firstError_nil]

theorem firstError_modeInitChecks_pass {m : Mode} {s : State} (hiv : (m = .cbc ∨ m = .ofb) → s.ivLen = 16)
    (hnonce : m = .ctr → s.ivLen.toNat ≤ 16) : firstError (modeInitChecks m s) = none := by
  cases m with
  | ecb => rfl
  | cbc => rw [firstError_modeInitChecks_iv (.inl rfl), if_neg (not_not.2 (hiv (.inl rfl)))]
  | ofb => rw [firstError_modeInitChecks_iv (.inr rfl), if_neg (not_not.2 (hiv (.inr rfl)))]
  | ctr => rw [firstError_modeInitChecks_ctr, if_neg (hnonce rfl).not_gt]

/-! ### The context -/

/-- The big-endian counter base is the nonce at the end of a block, zero bytes before it (R154). -/
theorem byteAt_counterBase_big (iv : Block) {n j : Nat} (hn : n ≤ 16) (hj : j < 16) :
    byteAt (counterBase .big iv n) j = if j < 16 - n then 0 else byteAt iv (j - (16 - n)) := by
  rw [counterBase, byteAt_blockOfList _ j hj]
  split
  case isTrue hlt => rw [List.getD_append _ _ _ _ (by simpa using hlt), List.getD_replicate _ hlt]
  case isFalse hge =>
    rw [List.getD_append_right _ _ _ _ (by simpa using hge), List.length_replicate,
      ← blockList_getD iv _ (by omega), List.getD_eq_getElem?_getD, List.getD_eq_getElem?_getD,
      List.getElem?_take_of_lt (by omega)]

/-- CTRL with an active context, field by field (10_state.md R22). -/
theorem ctrlWord_of_active {t : State} (h : t.active = true) :
    ctrlWord t = 0x80#32 ||| ((blockOpBits t.op).setWidth 32 <<< 3) ||| ((dirBit t.dir).setWidth 32 <<< 2)
      ||| (modeBits t.mode).setWidth 32 := by
  have fields : ∀ (o : BitVec 2) (d : BitVec 1) (m : BitVec 2), 0#24 ++ BitVec.ofBool true ++ 0#2 ++ o ++ d ++ m
      = 0x80#32 ||| (o.setWidth 32 <<< 3) ||| (d.setWidth 32 <<< 2) ||| m.setWidth 32 := by decide
  rw [ctrlWord, h]
  exact fields _ _ _

end Sys2Proof.Machine

namespace Sys2Proof.Statement

open Sys2Proof Sys2Proof.Machine

/-- CHAIN is the only data register of the context (R153). -/
theorem holds_chain_modeInitEffect {m : Mode} {s : State} {b : Block} (h : modeInitChain m s = s.putBlock .chain b)
    (d : Dir) (f : BlockOp) : holds (modeInitEffect m d f s) .chain b :=
  holds_of_reg (calc
    (modeInitEffect m d f s).reg .chain = (modeInitChain m s).reg .chain := rfl
    _ = quadMap present b := by rw [h, State.reg_putBlock_self])

/-- Settles O36: the checks pass, and the effect is the context the rule names. -/
theorem modeInitCreatesTheContext : Obligations.ModeInitCreatesTheContext := by
  intro s m d f h hiv hnonce
  have checks := (congrArg firstError (checksOf_modeInit m d f s)).trans (firstError_modeInitChecks_pass hiv hnonce)
  refine ⟨modeInitEffect m d f s, effectOf_modeInit m d f s ▸ exec_runs h checks, rfl, rfl, rfl, rfl, rfl,
    ctrlWord_of_active rfl, ?iv, ?nonce, keeps_modeInitEffect m d f s (blockOpBits f)⟩
  case iv =>
    rintro (rfl | rfl) <;> exact holds_chain_modeInitEffect rfl d f
  case nonce =>
    rintro rfl
    exact ⟨_, holds_chain_modeInitEffect rfl d f, fun j hj => byteAt_counterBase_big _ (hnonce rfl) hj⟩

/-- Settles O37: in each clause the check named is the only one that is made. -/
theorem modeInitErrors : Obligations.ModeInitErrors := by
  intro s m d f h
  have checks := congrArg firstError (checksOf_modeInit m d f s)
  refine ⟨fun hm hiv => ?_, fun hm hnonce => ?_, ?_⟩
  · exact failsWith_of_firstError (c := .ivLength) h
      (checks.trans ((firstError_modeInitChecks_iv hm s).trans (if_pos hiv)))
  · subst hm
    exact failsWith_of_firstError (c := .nonceLength) h
      (checks.trans ((firstError_modeInitChecks_ctr s).trans (if_pos hnonce)))
  · exact failsWith_of_firstError (i := .modeInit m d 3) (c := .illegal .reservedOp) h rfl

end Sys2Proof.Statement
end

section
/-! SUPPORT. MODE_BLOCK (44_modes.md R160 to R170): its checks by mode, what it leaves in each mode and what it leaves
as it is, and the keystream of OFB and CTR. -/

namespace Sys2Proof.Machine

/-! ### The checks -/

theorem badModeLength_blockMode {m : Mode} (hm : m = .ecb ∨ m = .cbc) (len : Byte) :
    badModeLength m len = true ↔ len ≠ 16 := by
  obtain rfl | rfl := hm <;> simp [badModeLength]

theorem badModeLength_streamMode {m : Mode} (hm : m = .ofb ∨ m = .ctr) (len : Byte) :
    badModeLength m len = true ↔ len.toNat = 0 ∨ 16 < len.toNat := by
  have hzero : len = 0 ↔ len.toNat = 0 := ⟨fun h => by rw [h]; rfl, fun h => BitVec.eq_of_toNat_eq h⟩
  obtain rfl | rfl := hm <;> simp [badModeLength, ← hzero]

theorem opNeedsKeys_iff (f : BlockOp) : opNeedsKeys f = true ↔ f ≠ .ident := by
  cases f <;> decide

/-- NO_MODE comes first, then the block length, then the round-key count (R160). -/
theorem firstError_modeBlockChecks (s : State) :
    firstError (modeBlockChecks s) =
      if s.active = false then some .noMode
      else if badModeLength s.mode s.dinLen = true then some .blockLength
      else if s.op ≠ .ident ∧ s.rkCount ≠ 11 then some .roundKeyCount else none := by
  simp [modeBlockChecks, modeActive, firstError_cons, firstError_nil, opNeedsKeys_iff]

/-! ### The output of a stream mode -/

theorem byteAt_xorPrefix (d k : Block) (n : Nat) {j : Nat} (hj : j < 16) :
    byteAt (xorPrefix d k n) j = if j < n then byteAt d j ^^^ byteAt k j else 0 :=
  byteAt_blockOfBytes _ j hj

/-- The same keystream a second time gives the data back (R150, R162). -/
theorem byteAt_xorPrefix_xorPrefix (d k : Block) {n j : Nat} (hj : j < 16) (hn : j < n) :
    byteAt (xorPrefix (xorPrefix d k n) k n) j = byteAt d j := by
  rw [byteAt_xorPrefix _ k n hj, byteAt_xorPrefix d k n hj, if_pos hn, if_pos hn, BitVec.xor_assoc, BitVec.xor_self,
    BitVec.xor_zero]

/-- A zero block gives the keystream itself. -/
theorem xorPrefix_zero (k : Block) : xorPrefix (blockOfList []) k 16 = k :=
  block_ext_byteAt fun j hj => by
    rw [byteAt_xorPrefix _ k 16 hj, if_pos hj, byteAt_blockOfList [] j hj]
    exact BitVec.zero_xor

theorem xorBlock_eq_blockOfBytes (p q : Block) : xorBlock p q = blockOfBytes fun j => byteAt p j ^^^ byteAt q j :=
  block_ext_byteAt fun j hj => by rw [byteAt_xorBlock, byteAt_blockOfBytes _ j hj]

/-- The keystream block of a stream mode: OPERATE of the chaining value in OFB, of the counter in CTR (R166, R167). -/
def keystream (s : State) : Block :=
  operate s.op s.roundKey
    (if s.mode = .ofb then s.block .chain else counterBlock Config.ctrNonceOrder (s.block .chain) s.blkIdx)

theorem keystream_ofb {s : State} (hm : s.mode = .ofb) : keystream s = operate s.op s.roundKey (s.block .chain) := by
  rw [keystream, if_pos hm]

theorem keystream_ctr {s : State} (hm : s.mode = .ctr) :
    keystream s = operate s.op s.roundKey (counterBlock Config.ctrNonceOrder (s.block .chain) s.blkIdx) := by
  rw [keystream, if_neg (by simp [hm])]

/-- The keystream reads OP, MODE, the round keys, CHAIN and BLKIDX. -/
theorem keystream_congr {s t : State} (hm : t.mode = s.mode) (hop : t.op = s.op)
    (hrk : ∀ r, r < 11 → t.roundKey r = s.roundKey r) (hchain : t.block .chain = s.block .chain)
    (hidx : t.blkIdx = s.blkIdx) : keystream t = keystream s := by
  rw [keystream, keystream, hm, hop, hchain, hidx]
  exact operate_congr s.op hrk _

/-! ### The effect in each mode -/

theorem modeBlockEffect_ecb {s : State} (hm : s.mode = .ecb) : modeBlockEffect s = ecbBlock s := by
  simp [modeBlockEffect, hm]

theorem modeBlockEffect_ofb {s : State} (hm : s.mode = .ofb) : modeBlockEffect s = ofbBlock s := by
  simp [modeBlockEffect, hm]

theorem modeBlockEffect_ctr {s : State} (hm : s.mode = .ctr) : modeBlockEffect s = ctrBlock s := by
  simp [modeBlockEffect, hm]

/-- In both stream modes the output is DIN under the keystream (R162). -/
theorem block_dout_stream {s : State} (hm : s.mode = .ofb ∨ s.mode = .ctr) :
    (modeBlockEffect s).block .dout = xorPrefix (s.block .din) (keystream s) s.dinLen.toNat := by
  obtain hm | hm := hm
  · rw [modeBlockEffect_ofb hm, keystream_ofb hm]
    exact State.block_of_reg rfl
  · rw [modeBlockEffect_ctr hm, keystream_ctr hm]
    exact State.block_of_reg rfl

theorem block_dout_ecb {s : State} (hm : s.mode = .ecb) :
    (modeBlockEffect s).block .dout = operate s.op s.roundKey (s.block .din) := by
  rw [modeBlockEffect_ecb hm]
  exact State.block_of_reg rfl

/-- The counter of block BLKIDX is CHAIN plus BLKIDX modulo 2^128 (R167, R169; assumption 9). -/
theorem beInt_counterBlock (base : Block) (i : BitVec 128) :
    beInt (counterBlock Config.ctrNonceOrder base i) = beInt base + i :=
  beInt_be16 _

/-- The machine with another CTRL.DIR. -/
def State.withDir (s : State) (d : Dir) : State :=
  { s with dir := d }

/-- Only CBC reads CTRL.DIR (R170). -/
theorem modeBlockEffect_withDir {s : State} (hm : s.mode ≠ .cbc) (d : Dir) :
    modeBlockEffect (s.withDir d) = (modeBlockEffect s).withDir d := by
  cases h : s.mode with
  | ecb =>
    rw [modeBlockEffect_ecb h, modeBlockEffect_ecb (s := s.withDir d) h]
    rfl
  | cbc => exact absurd h hm
  | ofb =>
    rw [modeBlockEffect_ofb h, modeBlockEffect_ofb (s := s.withDir d) h]
    rfl
  | ctr =>
    rw [modeBlockEffect_ctr h, modeBlockEffect_ctr (s := s.withDir d) h]
    rfl

end Sys2Proof.Machine

namespace Sys2Proof.Statement

open Sys2Proof Sys2Proof.Machine

/-- Settles O38: the checks in their order, the length by the mode. -/
theorem modeBlockErrors : Obligations.ModeBlockErrors := by
  intro s h
  have checks : firstError (checksOf .modeBlock s) = _ := firstError_modeBlockChecks s
  refine ⟨fun ha => ?noMode, fun ha => ⟨fun hm hl => ?blockLen, fun hm hl => ?streamLen⟩,
    fun hlen ha ho hk => ?keys⟩
  case noMode => exact failsWith_of_firstError (c := .noMode) h (checks.trans (if_pos ha))
  all_goals rw [if_neg (by simp [ha])] at checks
  case blockLen =>
    exact failsWith_of_firstError (c := .blockLength) h
      (checks.trans (if_pos ((badModeLength_blockMode hm _).2 hl)))
  case streamLen =>
    exact failsWith_of_firstError (c := .blockLength) h
      (checks.trans (if_pos ((badModeLength_streamMode hm _).2 hl)))
  case keys =>
    have length : ¬ badModeLength s.mode s.dinLen = true := by
      obtain ⟨hm, hl⟩ | ⟨hm, hl, hl'⟩ := hlen
      · exact (badModeLength_blockMode hm _).not.2 (not_not.2 hl)
      · exact (badModeLength_streamMode hm _).not.2 (by omega)
    rw [if_neg length, if_pos ⟨ho, hk⟩] at checks
    exact failsWith_of_firstError (c := .roundKeyCount) h checks

/-! ### What MODE_BLOCK leaves -/

theorem modeBlockLeaves_modeResult (s : State) (y out : Block) :
    modeBlockLeaves s (s.modeResult y out) y out false := by
  refine ⟨holds_of_reg rfl, holds_of_reg rfl, rfl, BitVec.toNat_add s.blkIdx 1, ?lengths,
    keeps_mono (keeps_modeResult s y out) fun r h => by simpa using h⟩
  case lengths => simp [keepsLengths, State.modeResult]

theorem holds_putBlock_ne {s : State} {r d : DataReg} {b : Block} (h : holds s d b) (hne : d ≠ r) (c : Block) :
    holds (s.putBlock r c) d b := by
  obtain ⟨hw, hb⟩ := h
  refine ⟨?_, (State.block_putBlock_ne s r d c hne).trans hb⟩
  rwa [State.reg_putBlock_ne s r d c hne]

/-- The modes that write CHAIN write it after the rest (R164 to R166). -/
theorem modeBlockLeaves_putChain {s t : State} {y out : Block} (h : modeBlockLeaves s t y out false) (c : Block) :
    modeBlockLeaves s (t.putBlock .chain c) y out true := by
  obtain ⟨hstate, hdout, hlen, hidx, hlengths, hkeeps⟩ := h
  refine ⟨holds_putBlock_ne hstate (by decide) c, holds_putBlock_ne hdout (by decide) c, ?_, ?_, ?_,
    keeps_mono (keeps_trans hkeeps (keeps_putBlock t .chain c)) fun r h => by simpa using h⟩
  · rw [State.putBlock_doutLen, hlen]
  · rw [State.putBlock_blkIdx, hidx]
  · simpa [keepsLengths] using hlengths

theorem modeBlockLeaves_modeResult_chain (s : State) (y out c : Block) :
    modeBlockLeaves s ((s.modeResult y out).putBlock .chain c) y out true :=
  modeBlockLeaves_putChain (modeBlockLeaves_modeResult s y out) c

/-- In a stream mode MODE_BLOCK runs from a state that is ready for it (R160, R161). -/
theorem exec_modeBlock_of_readyStream {s : State} (h : readyStream s) (hm : s.mode = .ofb ∨ s.mode = .ctr) :
    exec .modeBlock s = .next (modeBlockEffect s) := by
  obtain ⟨herr, hact, hpos, hle, hkeys⟩ := h
  have length : badModeLength s.mode s.dinLen = false :=
    Bool.eq_false_iff.2 ((badModeLength_streamMode hm _).not.2 (by omega))
  exact exec_runs herr (firstError_modeBlockChecks_pass hact length hkeys)

end Sys2Proof.Statement

/-! ### MODE_BLOCK completes

In a namespace of their own, since the model's functions have the names these theorems take. -/

namespace Sys2Proof.Statement.Completes

open Sys2Proof Sys2Proof.Machine Sys2Proof.Statement

/-- Settles O39: STATE and DOUT both take OPERATE of DIN. -/
theorem ecbBlock : Obligations.EcbBlock := fun s h hm =>
  ⟨Machine.ecbBlock s, modeBlockEffect_ecb hm ▸ exec_modeBlock_of_readyBlock h (.inl hm),
    modeBlockLeaves_modeResult s _ _⟩

/-- Settles O40: the rule's bytewise XOR is that of whole blocks. -/
theorem cbcBlock : Obligations.CbcBlock := by
  intro s h hm
  have run := exec_modeBlock_of_readyBlock h (.inr hm)
  simp only [← xorBlock_eq_blockOfBytes]
  refine ⟨fun hd => ?_, fun hd => ?_⟩
  · rw [modeBlockEffect_cbc_enc hm hd] at run
    exact ⟨_, _, run, rfl, modeBlockLeaves_modeResult_chain s _ _ _, holds_putBlock _ .chain _⟩
  · rw [modeBlockEffect_cbc_dec hm hd] at run
    exact ⟨_, run, modeBlockLeaves_modeResult_chain s _ _ _, holds_putBlock _ .chain _⟩

/-- Settles O41: CHAIN takes the block that STATE takes, which `xorPrefix` cuts for DOUT. -/
theorem ofbBlock : Obligations.OfbBlock := fun s h hm =>
  ⟨Machine.ofbBlock s, _, modeBlockEffect_ofb hm ▸ exec_modeBlock_of_readyStream h (.inl hm),
    modeBlockLeaves_modeResult_chain s _ _ _, holds_putBlock _ .chain _, fun _ hj => byteAt_xorPrefix _ _ _ hj⟩

/-- Settles O42: the counter is CHAIN plus BLKIDX as 128-bit integers. -/
theorem ctrBlock : Obligations.CtrBlock := fun s h hm =>
  ⟨Machine.ctrBlock s, _, counterBlock Config.ctrNonceOrder (s.block .chain) s.blkIdx,
    modeBlockEffect_ctr hm ▸ exec_modeBlock_of_readyStream h (.inr hm),
    by rw [beInt_counterBlock, BitVec.toNat_add],
    modeBlockLeaves_modeResult s _ _, fun _ hj => byteAt_xorPrefix _ _ _ hj⟩

end Sys2Proof.Statement.Completes

namespace Sys2Proof.Statement

open Sys2Proof Sys2Proof.Machine

/-! ### What MODE_BLOCK reads -/

/-- Settles O47: neither the checks nor the effect reads DIR. -/
theorem directionMattersOnlyInCbc : Obligations.DirectionMattersOnlyInCbc := by
  intro s d hm
  change exec .modeBlock (s.withDir d) = andThen (exec .modeBlock s) fun t => .next (t.withDir d)
  obtain ⟨hi, h, e⟩ | ⟨_, h, c, hc, e⟩ | ⟨hrun, hc, e⟩ := exec_cases .modeBlock s <;> rw [e, andThen_next]
  case inl => exact exec_dropped h hi
  case inr.inl => exact exec_fails (s := s.withDir d) h hc
  case inr.inr =>
    have herr : s.err = 0 := hrun.resolve_right (by decide)
    have run : exec .modeBlock (s.withDir d) = .next (modeBlockEffect (s.withDir d)) := exec_runs herr hc
    rw [run, modeBlockEffect_withDir hm]
    rfl

/-- Settles O45: the output is OPERATE of DIN in ECB, DIN under the keystream in CTR. -/
theorem independentBlocks : Obligations.IndependentBlocks := by
  intro s s' t t' ht ht' hm hop hdin hrk
  refine ⟨fun hs hs' hctr hchain hidx hlen => ?_, fun hs hs' hecb => ?_⟩
  · have hctr' : s'.mode = .ctr := hm.trans hctr
    obtain rfl := Host.Outcome.next.inj ((exec_modeBlock_of_readyStream hs (.inr hctr)).symm.trans ht)
    obtain rfl := Host.Outcome.next.inj ((exec_modeBlock_of_readyStream hs' (.inr hctr')).symm.trans ht')
    constructor
    · rw [block_dout_stream (.inr hctr), block_dout_stream (.inr hctr'), hdin, hlen,
        keystream_congr hm hop hrk hchain hidx]
    · rw [modeBlockEffect_ctr hctr, modeBlockEffect_ctr hctr']
      exact hlen
  · have hecb' : s'.mode = .ecb := hm.trans hecb
    obtain rfl := Host.Outcome.next.inj ((exec_modeBlock_of_readyBlock hs (.inl hecb)).symm.trans ht)
    obtain rfl := Host.Outcome.next.inj ((exec_modeBlock_of_readyBlock hs' (.inl hecb')).symm.trans ht')
    rw [block_dout_ecb hecb, block_dout_ecb hecb', hop, hdin, operate_congr s.op hrk]

/-! ### A second MODE_BLOCK in the same context -/

/-- A second MODE_BLOCK in the context finds what the first one's checks and OPERATE found: the fields MODE_BLOCK
does not write (R30). -/
structure SameContext (s t : State) : Prop where
  err : t.err = s.err
  active : t.active = s.active
  mode : t.mode = s.mode
  op : t.op = s.op
  dinLen : t.dinLen = s.dinLen
  rkCount : t.rkCount = s.rkCount
  roundKey : t.roundKey = s.roundKey

theorem SameContext.of_modeBlockEffect (s : State) : SameContext s (modeBlockEffect s) := by
  obtain ⟨⟨-, -, hdraws⟩, hr⟩ := keeps_modeBlockEffect s
  obtain ⟨herr, -, -⟩ := (hr .status (by simp [writesByR30, inReg, inBlkIdx])).1
  obtain ⟨hmode, -, hop, hactive⟩ := (hr .ctrl (by simp [writesByR30, inReg, inBlkIdx])).1
  obtain ⟨hdinLen, -, -⟩ := keepsLengths_effectOf (i := .modeBlock) s (by decide)
  have hrkCount := (hr .rkcnt (writesByR30_rkcnt (i := .modeBlock) (by decide) (by decide) s)).1
  have hw := w_of_keeps (keeps_modeBlockEffect s) (writesByR30_roundWord (i := .modeBlock) (by decide) s)
  exact ⟨herr, hactive, hmode, hop, hdinLen, hrkCount, State.roundKey_congr hw hdraws⟩

theorem SameContext.trans {s t u : State} (h : SameContext s t) (k : SameContext t u) : SameContext s u :=
  ⟨k.err.trans h.err, k.active.trans h.active, k.mode.trans h.mode, k.op.trans h.op, k.dinLen.trans h.dinLen,
    k.rkCount.trans h.rkCount, k.roundKey.trans h.roundKey⟩

theorem readyStream_of_sameContext {s t : State} (h : SameContext s t) (hs : readyStream s) : readyStream t := by
  simpa only [readyStream, h.err, h.active, h.dinLen, h.op, h.rkCount] using hs

theorem SameContext.blkIdx (s : State) (v : BitVec 128) : SameContext s { s with blkIdx := v } :=
  ⟨rfl, rfl, rfl, rfl, rfl, rfl, State.roundKey_congr rfl rfl⟩

theorem SameContext.putBlock (s : State) (r : DataReg) (b : Block) : SameContext s (s.putBlock r b) := by
  constructor <;> simp

/-- The machine `t` with the chaining value and block index of `s` again, its output as the next input. -/
def rewound (s t : State) : State :=
  (({ t with blkIdx := s.blkIdx }).putBlock .chain (s.block .chain)).putBlock .din (t.block .dout)

theorem SameContext.rewound (s : State) : SameContext s (rewound s (modeBlockEffect s)) :=
  (((SameContext.of_modeBlockEffect s).trans (.blkIdx _ _)).trans (.putBlock _ _ _)).trans (.putBlock _ _ _)

theorem keystream_rewound (s : State) : keystream (rewound s (modeBlockEffect s)) = keystream s :=
  have same := SameContext.rewound s
  keystream_congr same.mode same.op (fun r _ => congrFun same.roundKey r) (State.block_of_reg rfl) rfl

/-- Settles O44: both blocks see one keystream, and its XOR undoes itself. -/
theorem streamBlockUndoesItself : Obligations.StreamBlockUndoesItself := by
  intro s t t' hs hm ht ht' j hj
  obtain rfl := Host.Outcome.next.inj ((exec_modeBlock_of_readyStream hs hm).symm.trans ht)
  change exec .modeBlock (rewound s (modeBlockEffect s)) = .next t' at ht'
  have same := SameContext.rewound s
  have hm' : (rewound s (modeBlockEffect s)).mode = .ofb ∨ (rewound s (modeBlockEffect s)).mode = .ctr :=
    same.mode ▸ hm
  obtain rfl := Host.Outcome.next.inj
    ((exec_modeBlock_of_readyStream (readyStream_of_sameContext same hs) hm').symm.trans ht')
  have hdin : (rewound s (modeBlockEffect s)).block .din = xorPrefix (s.block .din) (keystream s) s.dinLen.toNat :=
    (State.block_putBlock_self _ .din _).trans (block_dout_stream hm)
  obtain ⟨-, -, -, hle, -⟩ := hs
  rw [block_dout_stream hm', hdin, keystream_rewound, same.dinLen,
    byteAt_xorPrefix_xorPrefix _ _ (hj.trans_le hle) hj]

/-- With the identity for OPERATE and a zero block the output of CTR is the counter itself (R169). -/
theorem beInt_dout_ctr_ident {s : State} (hm : s.mode = .ctr) (hop : s.op = .ident) (hlen : s.dinLen = 16)
    (hdin : s.block .din = blockOfList []) :
    beInt ((modeBlockEffect s).block .dout) = beInt (s.block .chain) + s.blkIdx := by
  have hn : s.dinLen.toNat = 16 := by rw [hlen]; rfl
  rw [block_dout_stream (.inr hm), keystream_ctr hm, hop, hdin, hn, xorPrefix_zero, ← beInt_counterBlock]
  rfl

/-- A frame that spares the words of a data register keeps what it reads. -/
theorem block_of_keeps {s t : State} {p : WindowReg → Bool} (h : keeps s t p) {d : DataReg}
    (hp : ∀ j, p (.data d j) = false) : t.block d = s.block d := by
  have hreg := reg_of_keeps h hp
  obtain ⟨⟨-, -, hdraws⟩, -⟩ := h
  exact State.block_congr hreg hdraws

/-- Settles O46: the second block runs in the context the first leaves, with CHAIN and DIN kept and BLKIDX one more. -/
theorem counterWrapsOverTheWholeBlock : Obligations.CounterWrapsOverTheWholeBlock := by
  intro s hs hm hop hlen hdin
  have same := SameContext.of_modeBlockEffect s
  have hm' := same.mode.trans hm
  have frame := keeps_modeBlockEffect s
  have hchain : (modeBlockEffect s).block .chain = s.block .chain :=
    block_of_keeps frame fun j => by simp [writesByR30, inReg, inBlkIdx, hm]
  have hdin' : (modeBlockEffect s).block .din = s.block .din :=
    block_of_keeps frame (writesByR30_hostReg (.inr (.inl rfl)) .modeBlock s)
  have hidx : (modeBlockEffect s).blkIdx = s.blkIdx + 1 := by
    rw [modeBlockEffect_ctr hm]
    rfl
  have first := beInt_dout_ctr_ident hm hop hlen hdin
  have second := beInt_dout_ctr_ident hm' (same.op.trans hop) (same.dinLen.trans hlen) (hdin'.trans hdin)
  rw [hchain, hidx, ← add_assoc, ← first] at second
  refine ⟨_, _, exec_modeBlock_of_readyStream hs (.inr hm),
    exec_modeBlock_of_readyStream (readyStream_of_sameContext same hs) (.inr hm'), ?_, ?_⟩
  · rw [first, BitVec.toNat_add]
  · rw [second]
    exact BitVec.toNat_add _ 1

end Sys2Proof.Statement
end

section
/-! SUPPORT. A host write of STATUS (45_control.md R182): bit 31 alone decides what it does. -/

namespace Sys2Proof.Machine

theorem writeStatus_of_set {v : Word} (h : v.getLsbD 31 = true) (s : State) : writeStatus v s = s.clearError :=
  if_pos h

theorem writeStatus_of_clear {v : Word} (h : v.getLsbD 31 = false) (s : State) : writeStatus v s = s :=
  if_neg (Bool.eq_false_iff.1 h)

/-- STATUS stands at offset 0x004, and its write is accepted whatever ERR holds (R42, R182). -/
theorem busWrite_status (v : Word) (s : State) : busWrite 0x004 v s = .next (writeStatus v s) :=
  busWrite_of_mapped (r := .status) rfl v s

/-- A cleared error record leaves the whole of STATUS 0 (R23, R182). -/
@[simp] theorem statusWord_clearError (s : State) : statusWord s.clearError = 0 := by
  rw [statusWord, State.clearError_err, State.clearError_errOpc, State.clearError_errInfo]
  rfl

end Sys2Proof.Machine

namespace Sys2Proof.Statement

open Sys2Proof Sys2Proof.Machine

/-- Settles O10: the write is `clearError` with bit 31 set, and leaves the state as it is with bit 31 clear. -/
theorem statusWriteClearsTheError : Obligations.StatusWriteClearsTheError := by
  intro s v
  rw [busWrite_status]
  refine ⟨fun hset => ?_, fun hclear => ?_⟩
  · rw [writeStatus_of_set hset]
    exact ⟨_, rfl, (errorPending_eq_false _).2 (State.clearError_err s), statusWord_clearError s, keeps_clearError s⟩
  · rw [writeStatus_of_clear hclear]

end Sys2Proof.Statement
end

section
/-! SUPPORT. The buffer functions (46_buffer_procedures.md R190 to R192): padding and stripping, and the chunks of a
buffer, which are the only way to cut it so. -/

namespace Sys2Proof.Machine

/-! ### Padding and stripping -/

theorem length_zeroPad (x : List Byte) : (zeroPad x).length = x.length + (16 - x.length % 16) % 16 := by
  simp [zeroPad]

theorem length_zeroPad_mod (x : List Byte) : (zeroPad x).length % 16 = 0 := by
  rw [length_zeroPad]
  omega

/-- Stripping drops from the right while bytes are 0x00. -/
theorem stripZeros_eq_rdropWhile (x : List Byte) : stripZeros x = x.rdropWhile fun v => v == 0 := rfl

theorem stripZeros_append_zeros (x : List Byte) (n : Nat) : stripZeros (x ++ List.replicate n 0) = stripZeros x := by
  simp only [stripZeros_eq_rdropWhile]
  induction n with
  | zero => rw [List.replicate_zero, List.append_nil]
  | succ n ih => rw [List.replicate_succ', ← List.append_assoc, List.rdropWhile_concat_pos _ _ _ rfl, ih]

theorem stripZeros_zeroPad (x : List Byte) : stripZeros (zeroPad x) = stripZeros x :=
  stripZeros_append_zeros x _

/-- What stripping takes off is 0x00 bytes. -/
theorem exists_eq_stripZeros_append (x : List Byte) : ∃ n, x = stripZeros x ++ List.replicate n 0 := by
  let tail := x.rtakeWhile fun v => v == 0
  have zeros : tail = List.replicate tail.length 0 :=
    List.eq_replicate_of_mem fun v hv => by simpa using List.mem_rtakeWhile_imp hv
  refine ⟨tail.length, ?_⟩
  rw [← zeros, stripZeros_eq_rdropWhile, List.rdropWhile_append_rtakeWhile]

/-- Stripping stops at a byte that is not 0x00. -/
theorem getLast?_stripZeros_ne_zero {x : List Byte} {v : Byte} (h : (stripZeros x).getLast? = some v) : v ≠ 0 := by
  rw [stripZeros_eq_rdropWhile] at h
  obtain ⟨hne, rfl⟩ := List.mem_getLast?_eq_getLast h
  simpa using List.rdropWhile_last_not (fun v => v == 0) x hne

/-- Settles O56: the padding is under 16 bytes by its definition, and the stripping drops it with the other zeros. -/
theorem paddingAndStripping : Obligations.PaddingAndStripping := fun x =>
  ⟨length_zeroPad_mod x, ⟨_, Nat.mod_lt _ (by decide), rfl⟩, exists_eq_stripZeros_append x,
    fun _ h => getLast?_stripZeros_ne_zero h, stripZeros_zeroPad x⟩

/-! ### Chunks -/

@[simp] theorem chunksFrom_nil (fuel : Nat) : chunksFrom fuel [] = [] := by
  cases fuel <;> rfl

theorem chunksFrom_succ {x : List Byte} (h : x ≠ []) (fuel : Nat) :
    chunksFrom (fuel + 1) x = x.take 16 :: chunksFrom fuel (x.drop 16) :=
  if_neg h

/-- Any fuel of at least the length gives the chunks. -/
theorem chunksFrom_eq_blocksOf {fuel : Nat} {x : List Byte} (h : x.length ≤ fuel) : chunksFrom fuel x = blocksOf x := by
  suffices same : ∀ {m n : Nat} {y : List Byte}, y.length ≤ m → y.length ≤ n → chunksFrom m y = chunksFrom n y from
    same h le_rfl
  intro m
  induction m with
  | zero =>
    intro n y hm _
    rw [List.length_eq_zero_iff.1 (Nat.le_zero.1 hm), chunksFrom_nil, chunksFrom_nil]
  | succ m ih =>
    intro n y hm hn
    by_cases hy : y = []
    · rw [hy, chunksFrom_nil, chunksFrom_nil]
    · have hpos := List.length_pos_iff.2 hy
      obtain ⟨n, rfl⟩ := Nat.exists_eq_succ_of_ne_zero (show n ≠ 0 by omega)
      rw [chunksFrom_succ hy, chunksFrom_succ hy, ih (n := n)] <;> rw [List.length_drop] <;> omega

@[simp] theorem blocksOf_nil : blocksOf [] = [] := rfl

/-- The first chunk is the first 16 bytes; the others are the chunks of the rest (R190). -/
theorem blocksOf_of_ne_nil {x : List Byte} (h : x ≠ []) : blocksOf x = x.take 16 :: blocksOf (x.drop 16) := by
  obtain ⟨n, hn⟩ := Nat.exists_eq_succ_of_ne_zero (List.length_pos_iff.2 h).ne'
  rw [blocksOf, hn, chunksFrom_succ h, chunksFrom_eq_blocksOf (by rw [List.length_drop]; omega)]

/-- Induction on a buffer, 16 bytes at a time. -/
theorem buffer_induction {P : List Byte → Prop} (nil : P []) (cons : ∀ x, x ≠ [] → P (x.drop 16) → P x) (x : List Byte) :
    P x := by
  induction hn : x.length using Nat.strong_induction_on generalizing x with
  | _ n ih =>
    by_cases hx : x = []
    · exact hx ▸ nil
    · have hpos := List.length_pos_iff.2 hx
      exact cons x hx (ih _ (by rw [List.length_drop]; omega) _ rfl)

theorem flatten_blocksOf (x : List Byte) : (blocksOf x).flatten = x := by
  induction x using buffer_induction with
  | nil => rfl
  | cons x hx ih => rw [blocksOf_of_ne_nil hx, List.flatten_cons, ih, List.take_append_drop]

theorem length_blocksOf (x : List Byte) : (blocksOf x).length = (x.length + 15) / 16 := by
  induction x using buffer_induction with
  | nil => rfl
  | cons x hx ih =>
    have hpos := List.length_pos_iff.2 hx
    rw [blocksOf_of_ne_nil hx, List.length_cons, ih, List.length_drop]
    omega

/-- The shape of chunks: each has 1 to 16 bytes, and each but the last has 16 (R190). -/
def IsChunking (bs : List (List Byte)) : Prop :=
  (∀ c ∈ bs, 1 ≤ c.length ∧ c.length ≤ 16) ∧ ∀ c ∈ bs.dropLast, c.length = 16

theorem isChunking_blocksOf (x : List Byte) : IsChunking (blocksOf x) := by
  induction x using buffer_induction with
  | nil => simp [IsChunking]
  | cons x hx ih =>
    obtain ⟨bounds, whole⟩ := ih
    have hpos := List.length_pos_iff.2 hx
    rw [blocksOf_of_ne_nil hx]
    refine ⟨List.forall_mem_cons.2 ⟨by rw [List.length_take]; omega, bounds⟩, ?_⟩
    by_cases hlast : x.drop 16 = []
    · simp [hlast]
    · have hlen := List.length_pos_iff.2 hlast
      rw [blocksOf_of_ne_nil hlast, List.dropLast_cons_cons, ← blocksOf_of_ne_nil hlast]
      refine List.forall_mem_cons.2 ⟨?_, whole⟩
      rw [List.length_drop] at hlen
      rw [List.length_take]
      omega

/-- Settles O57: each fact by induction on the buffer, 16 bytes at a time. -/
theorem chunksOfABuffer : Obligations.ChunksOfABuffer := fun x =>
  ⟨flatten_blocksOf x, length_blocksOf x, isChunking_blocksOf x⟩

/-- A buffer can be cut into such chunks in one way. -/
theorem blocksOf_flatten {bs : List (List Byte)} (h : IsChunking bs) : blocksOf bs.flatten = bs := by
  induction bs with
  | nil => rfl
  | cons b rest ih =>
    obtain ⟨bounds, whole⟩ := h
    obtain ⟨⟨hpos, hle⟩, bounds⟩ := List.forall_mem_cons.1 bounds
    have hne : (b :: rest).flatten ≠ [] := fun e => by
      rw [List.flatten_cons, List.append_eq_nil_iff] at e
      simp [e.1] at hpos
    rw [blocksOf_of_ne_nil hne, List.flatten_cons]
    cases rest with
    | nil => simp [List.take_of_length_le hle, List.drop_eq_nil_of_le hle]
    | cons c rest =>
      rw [List.dropLast_cons_cons] at whole
      obtain ⟨hb, whole⟩ := List.forall_mem_cons.1 whole
      rw [List.take_left' hb, List.drop_left' hb, ih ⟨bounds, whole⟩]

/-- The shape of chunks is a matter of their lengths. -/
theorem IsChunking.of_map_length {bs cs : List (List Byte)} (h : IsChunking bs)
    (e : cs.map List.length = bs.map List.length) : IsChunking cs := by
  have byLengths : ∀ l : List (List Byte), IsChunking l ↔
      (∀ n ∈ l.map List.length, 1 ≤ n ∧ n ≤ 16) ∧ ∀ n ∈ (l.map List.length).dropLast, n = 16 := fun l => by
    rw [← List.map_dropLast, List.forall_mem_map, List.forall_mem_map, IsChunking]
  rw [byLengths, e, ← byLengths]
  exact h

/-- A buffer of whole blocks has whole chunks only. -/
theorem length_of_mem_blocksOf {x : List Byte} (h : x.length % 16 = 0) : ∀ c ∈ blocksOf x, c.length = 16 := by
  induction x using buffer_induction with
  | nil => simp
  | cons x hx ih =>
    have hpos := List.length_pos_iff.2 hx
    rw [blocksOf_of_ne_nil hx]
    refine List.forall_mem_cons.2 ⟨?_, ih ?_⟩
    · rw [List.length_take]
      omega
    · rw [List.length_drop]
      omega

/-- The chunks of any other buffer are whole but for a last one that is not (R194). -/
theorem exists_ragged_chunk {x : List Byte} (h : x.length % 16 ≠ 0) :
    ∃ whole last, blocksOf x = whole ++ [last] ∧ (∀ c ∈ whole, c.length = 16) ∧ last.length < 16 := by
  induction x using buffer_induction with
  | nil => exact absurd rfl h
  | cons x hx ih =>
    rw [blocksOf_of_ne_nil hx]
    by_cases hlen : x.length < 16
    · refine ⟨[], x, ?_, by simp, hlen⟩
      simp [List.take_of_length_le hlen.le, List.drop_eq_nil_of_le hlen.le]
    · obtain ⟨whole, last, e, hwhole, hlast⟩ := ih (by rw [List.length_drop]; omega)
      refine ⟨x.take 16 :: whole, last, by rw [e, List.cons_append], List.forall_mem_cons.2 ⟨?_, hwhole⟩, hlast⟩
      rw [List.length_take]
      omega

end Sys2Proof.Machine
end

section
/-! SUPPORT. The accesses of the buffer procedures (46_buffer_procedures.md R193): a register loaded by its four writes, a
command followed by the read of STATUS, and the output read back. Between them the host's record grows and nothing else. -/

namespace Sys2Proof.Machine

open Sys2Proof.Statement

/-- The machine with another record of the host's reads and another count of accesses, which are no registers (R46). -/
def State.withHost (s : State) (obs : List Word) (d : Nat) : State :=
  { s with observed := obs, draws := d }

@[simp] theorem State.withHost_reg (s : State) (obs : List Word) (d : Nat) (r : DataReg) :
    (s.withHost obs d).reg r = s.reg r := by
  cases r <;> rfl

@[simp] theorem onward_next (s : State) (k : State → ProcResult) : onward (.next s) k = k s := rfl

/-! ### Writes -/

theorem perform_append (es fs : List HostEvent) (s : State) :
    perform (es ++ fs) s = andThen (perform es s) (perform fs) := by
  induction es generalizing s with
  | nil => rfl
  | cons e es ih =>
    rw [List.cons_append, perform, perform]
    cases hostEvent e s with
    | next t => exact ih t
    | _ => rfl

theorem perform_cons_of_next {e : HostEvent} {s t : State} (h : hostEvent e s = .next t) (rest : List HostEvent) :
    perform (e :: rest) s = perform rest t := by
  rw [perform, h, andThen_next]

theorem tick_eq_withDraws (s : State) : s.tick = s.withDraws (s.draws + 1) := rfl

@[simp] theorem State.withDraws_draws (s : State) (d : Nat) : (s.withDraws d).draws = d := rfl

@[simp] theorem State.withDraws_withDraws (s : State) (d d' : Nat) : (s.withDraws d).withDraws d' = s.withDraws d' := rfl

theorem setReg_withDraws (s : State) (d : Nat) (r : DataReg) (q : Quad DataWord) :
    (s.withDraws d).setReg r q = (s.setReg r q).withDraws d := by
  cases r <;> rfl

theorem setReg_setReg (s : State) (r : DataReg) (q q' : Quad DataWord) : (s.setReg r q).setReg r q' = s.setReg r q' := by
  cases r <;> rfl

/-- The four writes of a block are one write of the register, and four accesses. -/
theorem afterBlockWrites_eq {r : DataReg} (hr : r ≠ .dout) (b : Block) (s : State) :
    afterBlockWrites r b s = (s.putBlock r b).withDraws (s.draws + 4) := by
  simp only [afterBlockWrites, writeData_of_ne_dout hr, State.putWord, unpackWord_packWord, tick_eq_withDraws,
    State.withDraws_reg, setReg_withDraws, setReg_setReg, State.reg_setReg_self, quadSet_all,
    State.withDraws_draws, State.withDraws_withDraws, State.setReg_draws]
  rfl

/-- `wr128`, then the rest (R71). -/
theorem perform_wr128_append {r : DataReg} (hr : r ≠ .dout) (b : Block) (rest : List HostEvent) (s : State) :
    perform (wr128 (.data r) b ++ rest) s = perform rest ((s.putBlock r b).withDraws (s.draws + 4)) := by
  rw [perform_append, perform_wr128_data, andThen_next, afterBlockWrites_eq hr]

/-- The machine with the three writable lengths declared. -/
def State.withLengths (s : State) (d k i : Byte) : State :=
  { s with dinLen := d, keyLen := k, ivLen := i }

theorem writeLen_setlen (d k i : Byte) (s : State) : writeLen (0#8 ++ i ++ k ++ d) s = s.withLengths d k i := by
  have lanes := unpackWord_packWord ⟨0#8, i, k, d⟩
  simp only [unpackWord, packWord, Quad.mk.injEq] at lanes
  obtain ⟨-, hi, hk, hd⟩ := lanes
  rw [writeLen, hi, hk, hd]
  rfl

/-- `setlen` (R71). -/
theorem hostEvent_setlen (d k i : Byte) (s : State) :
    hostEvent (setlen d k i) s = .next (s.withLengths d k i).tick := by
  rw [setlen, hostEvent_wr, ← writeLen_setlen]
  rfl

/-- `clear_err` (R71, R182). -/
theorem hostEvent_clearErr (s : State) : hostEvent clearErr s = .next s.clearError.tick := by
  rw [clearErr, hostEvent_wr, writeReg, writeStatus_of_set (by decide)]
  rfl

/-! ### Reads -/

/-- Reads of registers that hold `vs` at every draw. -/
theorem afterReads_eq {rs : List WindowReg} {s : State} {vs : List Word}
    (h : ∀ obs d, rs.map (readReg (s.withHost obs d)) = vs) (k : List Word → State → ProcResult) :
    ∃ obs d, afterReads rs s k = k vs (s.withHost obs d) := by
  induction rs generalizing s vs k with
  | nil =>
    obtain rfl := h s.observed s.draws
    exact ⟨s.observed, s.draws, rfl⟩
  | cons r rs ih =>
    obtain rfl := h s.observed s.draws
    obtain ⟨obs, d, e⟩ := ih (s := s.withHost (s.observed ++ [readReg s r]) (s.draws + 1))
      (fun obs d => (List.cons.inj (h obs d)).2) fun vs => k (readReg s r :: vs)
    refine ⟨obs, d, ?_⟩
    rw [afterReads, hostEvent_rd]
    exact e

theorem extractLsb'_statusWord (s : State) : (statusWord s).extractLsb' 0 4 = s.err := by
  have field : ∀ (n : BitVec 3) (o : BitVec 6) (e : BitVec 4),
      (0#13 ++ n ++ 0#2 ++ o ++ 0#4 ++ e).extractLsb' 0 4 = e := fun n o e => BitVec.extractLsb'_append_eq_right
  exact field s.errInfo s.errOpc s.err

/-- The host reads STATUS and goes on, or stops with the word it read (R193, R195). -/
theorem checkError_eq (s : State) (k : State → ProcResult) :
    ∃ obs d, checkError s k =
      if s.err ≠ 0 then .error (statusWord s) (s.withHost obs d) else k (s.withHost obs d) := by
  rw [checkError, ← extractLsb'_statusWord]
  exact afterReads_eq (vs := [statusWord s]) (fun _ _ => rfl) _

/-- DOUT_LEN is the first byte of LEN (10_state.md R24). -/
theorem extractLsb'_lenWord (s : State) : (lenWord s).extractLsb' 24 8 = s.doutLen :=
  congrArg Quad.a0 (unpackWord_packWord ⟨s.doutLen, s.ivLen, s.keyLen, s.dinLen⟩)

/-- `DOUT[0 .. DOUT_LEN-1]`, where DOUT is written (R193). -/
theorem readOutput_eq {s : State} {out : Block} (h : s.reg .dout = quadMap present out)
    (k : List Byte → State → ProcResult) :
    ∃ obs d, readOutput s k = k ((blockList out).take s.doutLen.toNat) (s.withHost obs d) := by
  have word : ∀ (obs : List Word) (d : Nat) (j : Fin 4),
      readReg (s.withHost obs d) (.data .dout j) = packWord (quadGet out j) := fun obs d j => by
    rw [readReg, State.dataWord, State.withHost_reg, h, quadGet_quadMap, contents_present]
  have run := afterReads_eq (s := s) (rs := [.len, .data .dout 0, .data .dout 1, .data .dout 2, .data .dout 3])
    (vs := [lenWord s, packWord out.a0, packWord out.a1, packWord out.a2, packWord out.a3])
    (fun obs d => by simp only [List.map_cons, List.map_nil, word]; rfl)
    fun vs t => k (((vs.drop 1).flatMap fun v => columnList (unpackWord v)).take
      ((vs.getD 0 0).extractLsb' 24 8).toNat) t
  have bytes : ([packWord out.a0, packWord out.a1, packWord out.a2, packWord out.a3].flatMap
      fun v => columnList (unpackWord v)) = blockList out := by
    simp [blockList]
  rw [← bytes, ← extractLsb'_lenWord]
  exact run

/-! ### A command -/

/-- The host issues a command and checks STATUS (R193). -/
def commandThenCheck (i : Instr) (s : State) (k : State → ProcResult) : ProcResult :=
  onward (perform [commandWrite (encode i)] s) fun t => checkError t k

/-- The word of a command runs it. -/
theorem perform_commandWrite {i : Instr} (hwf : i.wellFormed = true) {s t : State} (h : exec i s = .next t) :
    perform [commandWrite (encode i)] s = .next t.tick := by
  rw [perform_cons_of_next (t := t.tick)]
  · rfl
  · rw [hostEvent_commandWrite, runCommand_of_decode (decodeOfEncodeIsTheCommand i hwf), h, andThen_next]

/-- After a command that passes its checks the procedure goes on from its effect. -/
theorem commandThenCheck_runs {i : Instr} (hwf : i.wellFormed = true) {s : State} (h : s.err = 0)
    (hc : firstError (checksOf i s) = none) (k : State → ProcResult) :
    ∃ obs d, commandThenCheck i s k = k ((effectOf i s).withHost obs d) := by
  obtain ⟨obs, d, e⟩ := checkError_eq (effectOf i s).tick k
  have noError : (effectOf i s).tick.err = 0 := effectOf_err hc (.inl h)
  rw [if_neg (not_not.2 noError)] at e
  refine ⟨obs, d, ?_⟩
  rw [commandThenCheck, perform_commandWrite hwf (exec_runs h hc), onward_next, e]
  rfl

/-- After a command that fails a check the procedure ends with its STATUS word (R195). -/
theorem commandThenCheck_fails {i : Instr} (hwf : i.wellFormed = true) {s : State} {c : Cause} (h : s.err = 0)
    (hc : firstError (checksOf i s) = some c) (k : State → ProcResult) :
    procError (commandThenCheck i s k) = some (statusValue (opcOf i) (causeCode c).toNat (causeInfo c).toNat) := by
  obtain ⟨obs, d, e⟩ := checkError_eq (s.raise (opcOf i) c).tick k
  have error : (s.raise (opcOf i) c).tick.err ≠ 0 := causeCode_ne_zero c
  rw [if_pos error] at e
  rw [commandThenCheck, perform_commandWrite hwf (exec_fails h hc), onward_next, e, procError, statusWord_eq]
  rfl

/-! ### The procedures as commands on loaded registers -/

/-- The machine as `KEY_EXPAND` finds it (R193). -/
def keyLoaded (key iv : List Byte) (s : State) : State :=
  ((s.clearError.putBlock .key (blockOfList (key.take 16))).withLengths 0 (lengthField key) (lengthField iv)).withDraws
    (s.draws + 6)

/-- The machine as `MODE_INIT` finds it (R193). -/
def ivLoaded (iv : List Byte) (s : State) : State :=
  (s.putBlock .iv (blockOfList (iv.take 16))).withDraws (s.draws + 4)

/-- The machine as `MODE_BLOCK` finds it (R193). -/
def dinLoaded (iv b : List Byte) (s : State) : State :=
  ((s.putBlock .din (blockOfList b)).withLengths (lengthField b) 16 (lengthField iv)).withDraws (s.draws + 5)

theorem runMode_eq (m : Mode) (d : Dir) (f : BlockOp) (key iv x : List Byte) (s : State) :
    runMode m d f key iv x s =
      commandThenCheck .keyExpand (keyLoaded key iv s) fun s₁ =>
      commandThenCheck (.modeInit m d (blockOpBits f)) (ivLoaded iv s₁) fun s₂ =>
      runChunks iv (blocksOf x) [] s₂ := by
  simp only [runMode, List.cons_append, List.nil_append, perform_cons_of_next (hostEvent_clearErr _),
    perform_wr128_append (r := .key) (by decide), perform_wr128_append (r := .iv) (by decide),
    perform_cons_of_next (hostEvent_setlen _ _ _ _)]
  rfl

theorem runChunks_cons_eq (iv b : List Byte) (rest : List (List Byte)) (out : List Byte) (s : State) :
    runChunks iv (b :: rest) out s =
      commandThenCheck .modeBlock (dinLoaded iv b s) fun t =>
      readOutput t fun bytes u => runChunks iv rest (out ++ bytes) u := by
  rw [runChunks, perform_wr128_append (by decide), perform_cons_of_next (hostEvent_setlen _ _ _ _)]
  rfl

end Sys2Proof.Machine
end

section
/-! SUPPORT. The mode context as a value (44_modes.md R152 to R170): what MODE_BLOCK makes of a chunk in it, a machine that
holds it, and how MODE_BLOCK passes it on. -/

namespace Sys2Proof.Machine

open Sys2Proof.Statement

/-! ### A context and what it does to a chunk -/

/-- What MODE_BLOCK reads beside DIN, the round keys given by their key. -/
structure ModeContext where
  mode : Mode
  dir : Dir
  op : BlockOp
  key : Block
  chain : Block
  idx : BitVec 128

/-- Round key `r` of a key (R17, R122). -/
def expandedKey (key : Block) (r : Nat) : Block :=
  ⟨wordAt (keyExpansion key) (4 * r), wordAt (keyExpansion key) (4 * r + 1), wordAt (keyExpansion key) (4 * r + 2),
   wordAt (keyExpansion key) (4 * r + 3)⟩

/-- OPERATE in a context (R151). -/
def ModeContext.operate (c : ModeContext) (x : Block) : Block :=
  Machine.operate c.op (expandedKey c.key) x

/-- DOUT from DIN and its length (R163 to R167). -/
def ModeContext.outBlock (c : ModeContext) (x : Block) (n : Nat) : Block :=
  match c.mode, c.dir with
  | .ecb, _ => c.operate x
  | .cbc, .enc => c.operate (xorBlock x c.chain)
  | .cbc, .dec => xorBlock (c.operate x) c.chain
  | .ofb, _ => xorPrefix x (c.operate c.chain) n
  | .ctr, _ => xorPrefix x (c.operate (counterBlock Config.ctrNonceOrder c.chain c.idx)) n

/-- The chaining value after a block (R163 to R167). -/
def ModeContext.chainAfter (c : ModeContext) (x : Block) : Block :=
  match c.mode, c.dir with
  | .ecb, _ => c.chain
  | .cbc, .enc => c.operate (xorBlock x c.chain)
  | .cbc, .dec => x
  | .ofb, _ => c.operate c.chain
  | .ctr, _ => c.chain

/-- The context a chunk leaves. -/
def ModeContext.after (c : ModeContext) (b : List Byte) : ModeContext :=
  { c with chain := c.chainAfter (blockOfList b), idx := c.idx + 1 }

/-- The bytes a chunk gives. -/
def ModeContext.output (c : ModeContext) (b : List Byte) : List Byte :=
  (blockList (c.outBlock (blockOfList b) b.length)).take b.length

/-- The bytes of each chunk in turn. -/
def ModeContext.outputs : ModeContext → List (List Byte) → List (List Byte)
  | _, [] => []
  | c, b :: rest => c.output b :: (c.after b).outputs rest

/-- The chunks MODE_BLOCK takes in a mode (R161). -/
def chunkFits (m : Mode) (b : List Byte) : Prop :=
  1 ≤ b.length ∧ b.length ≤ 16 ∧ (paddedMode m = true → b.length = 16)

/-! ### A machine that holds a context -/

/-- The round-key file KEY_EXPAND writes (R124). -/
def keyFile (key : Block) : Vector DataWord 44 :=
  Vector.ofFn fun i : Fin 44 => present (keyExpansion key)[i]

/-- The machine has no error pending and holds the context; in ECB no chaining value (R20). -/
structure ModeContext.HeldBy (c : ModeContext) (s : State) : Prop where
  err : s.err = 0
  active : s.active = true
  mode : s.mode = c.mode
  dir : s.dir = c.dir
  op : s.op = c.op
  rkCount : s.rkCount = 11
  w : s.w = keyFile c.key
  chain : c.mode ≠ .ecb → s.reg .chain = quadMap present c.chain
  blkIdx : s.blkIdx = c.idx

theorem roundKey_of_keyFile {s : State} {key : Block} (h : s.w = keyFile key) : s.roundKey = expandedKey key := by
  have word : ∀ i : Fin 44, s.roundWord i = (keyExpansion key)[i] := fun i => by
    simp [State.roundWord, h, keyFile]
  funext r
  simp only [State.roundKey, word]
  rfl

theorem ModeContext.HeldBy.operate_eq {c : ModeContext} {s : State} (h : c.HeldBy s) :
    Machine.operate s.op s.roundKey = c.operate := by
  rw [h.op, roundKey_of_keyFile h.w]
  rfl

theorem ModeContext.HeldBy.block_chain {c : ModeContext} {s : State} (h : c.HeldBy s) (hm : c.mode ≠ .ecb) :
    s.block .chain = c.chain :=
  State.block_of_reg (h.chain hm)

theorem ModeContext.HeldBy.withHost {c : ModeContext} {s : State} (h : c.HeldBy s) (obs : List Word) (d : Nat) :
    c.HeldBy (s.withHost obs d) :=
  ⟨h.err, h.active, h.mode, h.dir, h.op, h.rkCount, h.w, h.chain, h.blkIdx⟩

theorem ModeContext.HeldBy.dinLoaded {c : ModeContext} {s : State} (h : c.HeldBy s) (iv b : List Byte) :
    c.HeldBy (dinLoaded iv b s) :=
  ⟨h.err, h.active, h.mode, h.dir, h.op, h.rkCount, h.w, h.chain, h.blkIdx⟩

theorem block_din_dinLoaded (iv b : List Byte) (s : State) : (dinLoaded iv b s).block .din = blockOfList b :=
  State.block_of_reg rfl

/-! ### MODE_BLOCK in a context -/

theorem blkIdx_modeBlockEffect (s : State) : (modeBlockEffect s).blkIdx = s.blkIdx + 1 := by
  unfold modeBlockEffect
  split <;> rfl

theorem doutLen_modeBlockEffect (s : State) : (modeBlockEffect s).doutLen = s.dinLen := by
  unfold modeBlockEffect
  split <;> rfl

/-- DOUT and CHAIN after MODE_BLOCK, mode by mode. -/
theorem registers_modeBlockEffect {c : ModeContext} {s : State} (h : c.HeldBy s) :
    (modeBlockEffect s).reg .dout = quadMap present (c.outBlock (s.block .din) s.dinLen.toNat) ∧
    (c.mode ≠ .ecb → (modeBlockEffect s).reg .chain = quadMap present (c.chainAfter (s.block .din))) := by
  simp only [ModeContext.outBlock, ModeContext.chainAfter, ← h.operate_eq, ← h.blkIdx]
  cases hm : c.mode with
  | ecb =>
    rw [modeBlockEffect_ecb (h.mode.trans hm)]
    exact ⟨rfl, fun hne => absurd rfl hne⟩
  | cbc =>
    rw [← h.block_chain (by simp [hm])]
    cases hd : c.dir with
    | enc =>
      rw [modeBlockEffect_cbc_enc (h.mode.trans hm) (h.dir.trans hd)]
      exact ⟨rfl, fun _ => rfl⟩
    | dec =>
      rw [modeBlockEffect_cbc_dec (h.mode.trans hm) (h.dir.trans hd)]
      exact ⟨rfl, fun _ => rfl⟩
  | ofb =>
    rw [← h.block_chain (by simp [hm]), modeBlockEffect_ofb (h.mode.trans hm)]
    exact ⟨rfl, fun _ => rfl⟩
  | ctr =>
    have hchain := h.chain (by simp [hm])
    rw [modeBlockEffect_ctr (h.mode.trans hm), ← h.block_chain (by simp [hm])]
    exact ⟨rfl, fun _ => hchain.trans (by rw [h.block_chain (by simp [hm])])⟩

/-- MODE_BLOCK passes the context on. -/
theorem ModeContext.HeldBy.modeBlockEffect {c : ModeContext} {s : State} (h : c.HeldBy s) {b : List Byte}
    (hb : s.block .din = blockOfList b) : (c.after b).HeldBy (modeBlockEffect s) := by
  have same := SameContext.of_modeBlockEffect s
  have frame := keeps_modeBlockEffect s
  obtain ⟨-, hdir, -, -⟩ := (frame.2 .ctrl (by simp [writesByR30, inReg, inBlkIdx])).1
  have hw := w_of_keeps frame (writesByR30_roundWord (i := .modeBlock) (by decide) s)
  obtain ⟨-, hchain⟩ := registers_modeBlockEffect h
  rw [hb] at hchain
  exact ⟨same.err.trans h.err, same.active.trans h.active, same.mode.trans h.mode, hdir.trans h.dir,
    same.op.trans h.op, same.rkCount.trans h.rkCount, hw.trans h.w, hchain,
    (blkIdx_modeBlockEffect s).trans (by rw [h.blkIdx]; rfl)⟩

end Sys2Proof.Machine
end

section
/-! SUPPORT. The buffer procedures in a context (46_buffer_procedures.md R193, R194): the set-up creates it, and the loop
takes the chunks that fit and stops at one that does not. -/

namespace Sys2Proof.Machine

open Sys2Proof.Statement

/-! ### The loop -/

theorem toNat_lengthField (x : List Byte) : (lengthField x).toNat = min x.length 255 := by
  rw [lengthField, BitVec.toNat_ofNat]
  omega

theorem lengthField_eq_sixteen_iff (x : List Byte) : lengthField x = 16 ↔ x.length = 16 := by
  rw [← BitVec.toNat_inj, toNat_lengthField, show (16 : Byte).toNat = 16 from rfl]
  omega

theorem paddedMode_eq_true_iff (m : Mode) : paddedMode m = true ↔ m = .ecb ∨ m = .cbc := by
  cases m <;> simp [paddedMode]

theorem paddedMode_eq_false_iff (m : Mode) : paddedMode m = false ↔ m = .ofb ∨ m = .ctr := by
  cases m <;> simp [paddedMode]

theorem badModeLength_of_chunkFits {m : Mode} {b : List Byte} (h : chunkFits m b) :
    badModeLength m (lengthField b) = false := by
  obtain ⟨hpos, hle, hwhole⟩ := h
  rw [Bool.eq_false_iff]
  cases hm : paddedMode m with
  | true =>
    rw [Ne, badModeLength_blockMode ((paddedMode_eq_true_iff m).1 hm), not_not, lengthField_eq_sixteen_iff]
    exact hwhole hm
  | false =>
    rw [Ne, badModeLength_streamMode ((paddedMode_eq_false_iff m).1 hm), toNat_lengthField]
    omega

/-- One chunk: its bytes join the output, and the context moves on (R193). -/
theorem runChunks_cons {c : ModeContext} {s : State} (h : c.HeldBy s) {b : List Byte} (hb : chunkFits c.mode b)
    (iv : List Byte) (rest : List (List Byte)) (out : List Byte) :
    ∃ t, (c.after b).HeldBy t ∧ runChunks iv (b :: rest) out s = runChunks iv rest (out ++ c.output b) t := by
  have loaded := h.dinLoaded iv b
  have hdin := block_din_dinLoaded iv b s
  have hlen : (dinLoaded iv b s).dinLen.toNat = b.length := (toNat_lengthField b).trans (by have := hb.2.1; omega)
  have checks : firstError (checksOf .modeBlock (dinLoaded iv b s)) = none :=
    firstError_modeBlockChecks_pass loaded.active (loaded.mode ▸ badModeLength_of_chunkFits hb) (.inr loaded.rkCount)
  obtain ⟨hdout, -⟩ := registers_modeBlockEffect loaded
  rw [runChunks_cons_eq]
  obtain ⟨obs, d, run⟩ := commandThenCheck_runs (i := .modeBlock) rfl loaded.err checks
    fun t => readOutput t fun bytes u => runChunks iv rest (out ++ bytes) u
  obtain ⟨obs', d', read⟩ := readOutput_eq
    (((effectOf .modeBlock (dinLoaded iv b s)).withHost_reg obs d .dout).trans hdout)
    fun bytes u => runChunks iv rest (out ++ bytes) u
  refine ⟨_, ((loaded.modeBlockEffect hdin).withHost obs d).withHost obs' d', ?_⟩
  have hdoutLen : ((effectOf .modeBlock (dinLoaded iv b s)).withHost obs d).doutLen.toNat = b.length :=
    (congrArg BitVec.toNat (doutLen_modeBlockEffect _)).trans hlen
  rw [run, read, hdoutLen, hdin, hlen]
  rfl

/-- Chunks that fit, then the others (R193). -/
theorem runChunks_append {c : ModeContext} {s : State} (h : c.HeldBy s) {bs : List (List Byte)}
    (hbs : ∀ b ∈ bs, chunkFits c.mode b) (iv : List Byte) (rest : List (List Byte)) (out : List Byte) :
    ∃ (c' : ModeContext) (t : State), c'.mode = c.mode ∧ c'.HeldBy t ∧
      runChunks iv (bs ++ rest) out s = runChunks iv rest (out ++ (c.outputs bs).flatten) t := by
  induction bs generalizing c s out with
  | nil => exact ⟨c, s, rfl, h, by simp [ModeContext.outputs]⟩
  | cons b bs ih =>
    obtain ⟨hb, hbs⟩ := List.forall_mem_cons.1 hbs
    obtain ⟨t, ht, e⟩ := runChunks_cons h hb iv (bs ++ rest) out
    obtain ⟨c', u, hm, hu, e'⟩ := ih ht hbs (out ++ c.output b)
    refine ⟨c', u, hm, hu, ?_⟩
    rw [List.cons_append, e, e', List.append_assoc]
    rfl

/-- A procedure's loop ends with the chunks' bytes, where every chunk fits. -/
theorem procOutput_runChunks {c : ModeContext} {s : State} (h : c.HeldBy s) {bs : List (List Byte)}
    (hbs : ∀ b ∈ bs, chunkFits c.mode b) (iv : List Byte) :
    procOutput (runChunks iv bs [] s) = some (c.outputs bs).flatten := by
  obtain ⟨-, t, -, -, e⟩ := runChunks_append h hbs iv [] []
  rw [List.append_nil] at e
  rw [e]
  rfl

/-- A chunk that is no whole block stops a block mode with LENGTH (info 1), whatever comes after it (R194, R195). -/
theorem procError_runChunks_ragged {c : ModeContext} {s : State} (h : c.HeldBy s) (hm : paddedMode c.mode = true)
    {b : List Byte} (hb : b.length ≠ 16) (iv : List Byte) (rest : List (List Byte)) (out : List Byte) :
    procError (runChunks iv (b :: rest) out s) = some 0x00012102#32 := by
  have loaded := h.dinLoaded iv b
  have bad : badModeLength (dinLoaded iv b s).mode (dinLoaded iv b s).dinLen = true := by
    rw [loaded.mode, badModeLength_blockMode ((paddedMode_eq_true_iff _).1 hm)]
    exact (lengthField_eq_sixteen_iff b).not.2 hb
  have checks : firstError (checksOf .modeBlock (dinLoaded iv b s)) = some .blockLength := by
    refine (firstError_modeBlockChecks _).trans ?_
    rw [if_neg (by simp [loaded.active]), if_pos bad]
  rw [runChunks_cons_eq]
  exact commandThenCheck_fails (i := .modeBlock) rfl loaded.err checks _

/-! ### The set-up -/

/-- The IV or nonce lengths MODE_INIT takes in a mode (R153). -/
def ivFits (m : Mode) (iv : List Byte) : Prop :=
  ((m = .cbc ∨ m = .ofb) → iv.length = 16) ∧ (m = .ctr → iv.length ≤ 16)

/-- The machine after the procedure's KEY_EXPAND, its IV written (R193). -/
structure KeyExpanded (key iv : List Byte) (s : State) : Prop where
  err : s.err = 0
  rkCount : s.rkCount = 11
  w : s.w = keyFile (blockOfList (key.take 16))
  ivLen : s.ivLen = lengthField iv
  iv : s.block .iv = blockOfList (iv.take 16)

/-- The context the procedure's MODE_INIT creates (R153). -/
def startContext (m : Mode) (d : Dir) (f : BlockOp) (key iv : List Byte) : ModeContext where
  mode := m
  dir := d
  op := f
  key := blockOfList (key.take 16)
  chain :=
    if m = .ctr then counterBase Config.ctrNonceOrder (blockOfList (iv.take 16)) (lengthField iv).toNat
    else blockOfList (iv.take 16)
  idx := 0

theorem err_keyLoaded (key iv : List Byte) (s : State) : (keyLoaded key iv s).err = 0 :=
  State.putBlock_err s.clearError .key (blockOfList (key.take 16))

/-- A key that is not 16 bytes stops the procedure first (R195, R198). -/
theorem procError_runMode_badKey {key : List Byte} (hk : key.length ≠ 16) (m : Mode) (d : Dir) (f : BlockOp)
    (iv x : List Byte) (s : State) : procError (runMode m d f key iv x s) = some 0x00021802#32 := by
  rw [runMode_eq]
  exact commandThenCheck_fails (i := .keyExpand) rfl (err_keyLoaded key iv s)
    ((firstError_badKeyLength _).trans (if_pos ((lengthField_eq_sixteen_iff key).not.2 hk))) _

/-- KEY_EXPAND and the write of IV leave what MODE_INIT needs, whatever the host's record is. -/
theorem keyExpanded_ivLoaded {key iv : List Byte} {s : State} (h : (effectOf .keyExpand (keyLoaded key iv s)).err = 0)
    (obs : List Word) (n : Nat) :
    KeyExpanded key iv (ivLoaded iv ((effectOf .keyExpand (keyLoaded key iv s)).withHost obs n)) := by
  have hkey : (keyLoaded key iv s).block .key = blockOfList (key.take 16) := State.block_of_reg rfl
  have hw := w_effectOf_keyExpand (keyLoaded key iv s)
  rw [hkey] at hw
  exact ⟨h, rfl, hw, rfl, State.block_of_reg rfl⟩

/-- With a key of 16 bytes the procedure reaches MODE_INIT. -/
theorem runMode_of_key {key : List Byte} (hk : key.length = 16) (m : Mode) (d : Dir) (f : BlockOp)
    (iv x : List Byte) (s : State) :
    ∃ t, KeyExpanded key iv t ∧ runMode m d f key iv x s =
      commandThenCheck (.modeInit m d (blockOpBits f)) t fun u => runChunks iv (blocksOf x) [] u := by
  have checks : firstError (checksOf .keyExpand (keyLoaded key iv s)) = none :=
    (firstError_badKeyLength _).trans (if_neg (not_not.2 ((lengthField_eq_sixteen_iff key).2 hk)))
  have noError := effectOf_err checks (.inl (err_keyLoaded key iv s))
  rw [runMode_eq]
  obtain ⟨obs, n, run⟩ := commandThenCheck_runs (i := .keyExpand) rfl (err_keyLoaded key iv s) checks fun s₁ =>
    commandThenCheck (.modeInit m d (blockOpBits f)) (ivLoaded iv s₁) fun s₂ => runChunks iv (blocksOf x) [] s₂
  exact ⟨_, keyExpanded_ivLoaded noError obs n, run⟩

theorem modeInitChain_eq_putBlock {m : Mode} (hm : m ≠ .ecb) (s : State) :
    modeInitChain m s = s.putBlock .chain
      (if m = .ctr then counterBase Config.ctrNonceOrder (s.block .iv) s.ivLen.toNat else s.block .iv) := by
  cases m with
  | ecb => exact absurd rfl hm
  | _ => rfl

/-- MODE_INIT creates the context. -/
theorem KeyExpanded.modeInitEffect {key iv : List Byte} {s : State} (h : KeyExpanded key iv s) (m : Mode) (d : Dir)
    (f : BlockOp) : (startContext m d f key iv).HeldBy (modeInitEffect m d f s) := by
  have frame := keeps_modeInitEffect m d f s (blockOpBits f)
  obtain ⟨herr, -, -⟩ := (frame.2 .status (by simp [writesByR30, inReg, inBlkIdx])).1
  have hrkCount := (frame.2 .rkcnt (by simp [writesByR30, inReg, inBlkIdx])).1
  have hw := w_of_keeps frame (writesByR30_roundWord (by simp) s)
  refine ⟨herr.trans h.err, rfl, rfl, rfl, rfl, hrkCount.trans h.rkCount, hw.trans h.w, fun hm => ?_, rfl⟩
  have hchain : (Machine.modeInitEffect m d f s).reg .chain = (modeInitChain m s).reg .chain := rfl
  rw [hchain, modeInitChain_eq_putBlock (m := m) hm, State.reg_putBlock_self, h.iv, h.ivLen]
  rfl

theorem wellFormed_modeInit (m : Mode) (d : Dir) (f : BlockOp) :
    (Instr.modeInit m d (blockOpBits f)).wellFormed = true := by
  cases f <;> rfl

/-- With a key and an IV that fit the procedure reaches its chunks. -/
theorem runMode_of_fits {m : Mode} {key iv : List Byte} (hk : key.length = 16) (hiv : ivFits m iv) (d : Dir)
    (f : BlockOp) (x : List Byte) (s : State) :
    ∃ t, (startContext m d f key iv).HeldBy t ∧ runMode m d f key iv x s = runChunks iv (blocksOf x) [] t := by
  obtain ⟨u, hu, e⟩ := runMode_of_key hk m d f iv x s
  obtain ⟨hfull, hnonce⟩ := hiv
  have checks : firstError (checksOf (.modeInit m d (blockOpBits f)) u) = none := by
    rw [checksOf_modeInit]
    refine firstError_modeInitChecks_pass (fun hm => ?_) fun hm => ?_
    · rw [hu.ivLen, lengthField_eq_sixteen_iff, hfull hm]
    · rw [hu.ivLen, toNat_lengthField]
      have := hnonce hm
      omega
  obtain ⟨obs, n, run⟩ := commandThenCheck_runs (wellFormed_modeInit m d f) hu.err checks
    fun t => runChunks iv (blocksOf x) [] t
  rw [effectOf_modeInit] at run
  exact ⟨_, (hu.modeInitEffect m d f).withHost obs n, e.trans run⟩

end Sys2Proof.Machine
end

section
/-! SUPPORT. Where the buffer procedures stop (46_buffer_procedures.md R195, R198). -/

namespace Sys2Proof.Machine

open Sys2Proof.Statement

theorem procOutput_of_procError {r : ProcResult} {v : Word} (h : procError r = some v) : procOutput r = none := by
  cases r with
  | done out t => cases h
  | _ => rfl

/-- Stripping touches no error. -/
theorem procError_modeDecrypt (m : Mode) (key iv x : List Byte) (s : State) :
    procError (modeDecrypt m key iv x s) = procError (runMode m .dec (decryptOp m) key iv x s) := by
  rw [modeDecrypt, modeDecryptBlocks]
  cases runMode m .dec (decryptOp m) key iv x s <;> rfl

/-- With a key of 16 bytes the next check is MODE_INIT's, on the length of the IV (R195). -/
theorem procError_runMode_modeInit {m : Mode} {key iv : List Byte} {c : Cause} (hk : key.length = 16)
    (hc : ∀ t : State, t.ivLen = lengthField iv → firstError (modeInitChecks m t) = some c) (d : Dir) (f : BlockOp)
    (x : List Byte) (s : State) :
    procError (runMode m d f key iv x s) = some (statusValue 0x20#6 (causeCode c).toNat (causeInfo c).toNat) := by
  obtain ⟨t, ht, e⟩ := runMode_of_key hk m d f iv x s
  rw [e]
  exact commandThenCheck_fails (wellFormed_modeInit m d f) ht.err
    ((congrArg firstError (checksOf_modeInit m d f t)).trans (hc t ht.ivLen)) _

theorem procError_runMode_badIv {m : Mode} {key iv : List Byte} (hk : key.length = 16) (hm : m = .cbc ∨ m = .ofb)
    (hiv : iv.length ≠ 16) (d : Dir) (f : BlockOp) (x : List Byte) (s : State) :
    procError (runMode m d f key iv x s) = some 0x00042002#32 :=
  procError_runMode_modeInit (c := .ivLength) hk (fun t ht => by
    rw [firstError_modeInitChecks_iv hm, ht, if_pos ((lengthField_eq_sixteen_iff iv).not.2 hiv)]) d f x s

theorem procError_runMode_badNonce {key iv : List Byte} (hk : key.length = 16) (hiv : 16 < iv.length) (d : Dir)
    (f : BlockOp) (x : List Byte) (s : State) : procError (runMode .ctr d f key iv x s) = some 0x00052002#32 :=
  procError_runMode_modeInit (c := .nonceLength) hk (fun t ht => by
    rw [firstError_modeInitChecks_ctr, ht, toNat_lengthField, if_pos (by omega)]) d f x s

/-- A buffer that is no multiple of 16 bytes stops a block mode at its last chunk (R194). -/
theorem procError_runMode_ragged {m : Mode} {key iv x : List Byte} (hk : key.length = 16) (hm : paddedMode m = true)
    (hiv : ivFits m iv) (hx : x.length % 16 ≠ 0) (d : Dir) (f : BlockOp) (s : State) :
    procError (runMode m d f key iv x s) = some 0x00012102#32 := by
  obtain ⟨t, ht, e⟩ := runMode_of_fits hk hiv d f x s
  obtain ⟨whole, last, hchunks, hwhole, hlast⟩ := exists_ragged_chunk hx
  have fit : ∀ b ∈ whole, chunkFits m b := fun b hb => by
    have := hwhole b hb
    exact ⟨by omega, by omega, fun _ => this⟩
  obtain ⟨c, u, hc, hu, e'⟩ := runChunks_append ht fit iv [last] []
  rw [e, hchunks, e']
  exact procError_runChunks_ragged hu (hc ▸ hm) hlast.ne iv [] _

/-- ECB takes any IV, CBC one of 16 bytes (R153). -/
theorem ivFits_of_blockMode {m : Mode} {iv : List Byte} (hm : m = .ecb ∨ (m = .cbc ∧ iv.length = 16)) :
    ivFits m iv ∧ paddedMode m = true := by
  obtain rfl | ⟨rfl, hiv⟩ := hm
  · exact ⟨⟨by simp, by simp⟩, rfl⟩
  · exact ⟨⟨fun _ => hiv, by simp⟩, rfl⟩

/-- Settles O58: the checks are those of KEY_EXPAND, MODE_INIT and MODE_BLOCK, in the order the commands come. -/
theorem proceduresStopAtTheFirstError : Obligations.ProceduresStopAtTheFirstError := by
  intro m key iv x s
  refine ⟨fun hk => ?key, fun hk hm hiv => ?iv, fun hk hm hiv => ?nonce, fun hk hm hx => ?ragged⟩
  case key =>
    refine ⟨procError_runMode_badKey hk m _ _ iv _ s, ?_⟩
    rw [procError_modeDecrypt, procError_runMode_badKey hk]
  case iv =>
    refine ⟨procError_runMode_badIv hk hm hiv _ _ _ s, ?_⟩
    rw [procError_modeDecrypt, procError_runMode_badIv hk hm hiv]
  case nonce =>
    subst hm
    refine ⟨procError_runMode_badNonce hk hiv _ _ _ s, ?_⟩
    rw [procError_modeDecrypt, procError_runMode_badNonce hk hiv]
  case ragged =>
    obtain ⟨hfits, hpadded⟩ := ivFits_of_blockMode hm
    have stops : procError (modeDecrypt m key iv x s) = some 0x00012102#32 := by
      rw [procError_modeDecrypt, procError_runMode_ragged hk hpadded hfits hx]
    exact ⟨stops, procOutput_of_procError stops⟩

end Sys2Proof.Machine
end

section
/-! SUPPORT. Decryption undoes encryption (46_buffer_procedures.md R196): chunk by chunk in a context, then for a buffer. -/

namespace Sys2Proof.Machine

open Sys2Proof.Statement

/-! ### Blocks and byte sequences -/

/-- The bytes of a block from index `n` on are 0x00. -/
def zeroFrom (y : Block) (n : Nat) : Prop :=
  ∀ j, n ≤ j → j < 16 → byteAt y j = 0

theorem zeroFrom_sixteen (y : Block) : zeroFrom y 16 := fun _ hn hj => absurd hj hn.not_gt

theorem zeroFrom_blockOfList (b : List Byte) : zeroFrom (blockOfList b) b.length := fun j hn hj => by
  rw [byteAt_blockOfList b j hj, List.getD_eq_default _ _ hn]

theorem zeroFrom_xorPrefix (x k : Block) (n : Nat) : zeroFrom (xorPrefix x k n) n := fun _ hn hj =>
  byteAt_xorPrefix_of_le x k hj hn

/-- The bytes before the zeros determine the block. -/
theorem blockOfList_take_blockList {y : Block} {n : Nat} (h : zeroFrom y n) :
    blockOfList ((blockList y).take n) = y :=
  block_ext_byteAt fun j hj => by
    rw [byteAt_blockOfList _ j hj, List.getD_eq_getElem?_getD, List.getElem?_take]
    split
    case isTrue => rw [← List.getD_eq_getElem?_getD, blockList_getD y j hj]
    case isFalse hn => exact (h j (not_lt.1 hn) hj).symm

/-- A chunk is read back from the block it fills. -/
theorem take_blockList_blockOfList {b : List Byte} (h : b.length ≤ 16) :
    (blockList (blockOfList b)).take b.length = b := by
  refine List.ext_getElem (by simpa using h) fun j hj hj' => ?_
  have read := blockList_getD (blockOfList b) j (by omega)
  rw [byteAt_blockOfList b j (by omega), List.getD_eq_getElem _ _ hj', List.getD_eq_getElem _ _ (by simp; omega)] at read
  rw [List.getElem_take, read]

theorem xorPrefix_xorPrefix {x : Block} {n : Nat} (h : zeroFrom x n) (k : Block) :
    xorPrefix (xorPrefix x k n) k n = x :=
  block_ext_byteAt fun j hj => by
    by_cases hn : j < n
    · exact byteAt_xorPrefix_xorPrefix x k hj hn
    · rw [zeroFrom_xorPrefix _ k n j (not_lt.1 hn) hj, h j (not_lt.1 hn) hj]

/-! ### One chunk -/

theorem length_output {c : ModeContext} {b : List Byte} (hb : b.length ≤ 16) : (c.output b).length = b.length := by
  simpa [ModeContext.output] using hb

/-- The next chunk of a procedure finds the whole of DOUT in the bytes it returned. -/
theorem blockOfList_output {c : ModeContext} {b : List Byte} (hb : chunkFits c.mode b) :
    blockOfList (c.output b) = c.outBlock (blockOfList b) b.length := by
  obtain ⟨-, -, hwhole⟩ := hb
  refine blockOfList_take_blockList ?_
  cases hm : c.mode with
  | ecb => exact hwhole (by rw [hm]; rfl) ▸ zeroFrom_sixteen _
  | cbc => exact hwhole (by rw [hm]; rfl) ▸ zeroFrom_sixteen _
  | ofb =>
    simp only [ModeContext.outBlock, hm]
    exact zeroFrom_xorPrefix _ _ _
  | ctr =>
    simp only [ModeContext.outBlock, hm]
    exact zeroFrom_xorPrefix _ _ _

/-- The context that decrypts what an encrypting one gives (R152, R194). -/
def ModeContext.inverse (c : ModeContext) : ModeContext :=
  { c with dir := .dec, op := decryptOp c.mode }

@[simp] theorem ModeContext.inverse_mode (c : ModeContext) : c.inverse.mode = c.mode := rfl
@[simp] theorem ModeContext.inverse_dir (c : ModeContext) : c.inverse.dir = .dec := rfl
@[simp] theorem ModeContext.inverse_chain (c : ModeContext) : c.inverse.chain = c.chain := rfl
@[simp] theorem ModeContext.inverse_idx (c : ModeContext) : c.inverse.idx = c.idx := rfl

/-- In a block mode OPERATE of the inverse undoes OPERATE (R163 to R165). -/
theorem inverse_operate_operate {c : ModeContext} (hm : paddedMode c.mode = true) (hop : c.op = .fwd) (x : Block) :
    c.inverse.operate (c.operate x) = x := by
  have hinv : c.inverse.op = .inv := if_pos hm
  rw [ModeContext.operate, ModeContext.operate, hop, hinv]
  exact invCipher_cipher _ x

/-- In a stream mode OPERATE is the forward cipher both ways (R166, R167). -/
theorem inverse_operate {c : ModeContext} (hm : paddedMode c.mode = false) (hop : c.op = .fwd) :
    c.inverse.operate = c.operate := by
  have hfwd : c.inverse.op = c.op := (if_neg (by simp [hm])).trans hop.symm
  funext x
  rw [ModeContext.operate, ModeContext.operate, hfwd]
  rfl

/-- DOUT of an encryption, decrypted (R163 to R167). -/
theorem inverse_outBlock_outBlock {c : ModeContext} (hd : c.dir = .enc) (hop : c.op = .fwd) {x : Block} {n : Nat}
    (hx : zeroFrom x n) : c.inverse.outBlock (c.outBlock x n) n = x := by
  cases hm : c.mode with
  | ecb =>
    simp only [ModeContext.outBlock, ModeContext.inverse_mode, hm]
    exact inverse_operate_operate (by rw [hm]; rfl) hop x
  | cbc =>
    simp only [ModeContext.outBlock, ModeContext.inverse_mode, hm, ModeContext.inverse_dir, hd, ModeContext.inverse_chain]
    rw [inverse_operate_operate (by rw [hm]; rfl) hop, xorBlock_cancel]
  | ofb =>
    simp only [ModeContext.outBlock, ModeContext.inverse_mode, hm, ModeContext.inverse_chain]
    rw [inverse_operate (by rw [hm]; rfl) hop, xorPrefix_xorPrefix hx]
  | ctr =>
    simp only [ModeContext.outBlock, ModeContext.inverse_mode, hm, ModeContext.inverse_chain, ModeContext.inverse_idx]
    rw [inverse_operate (by rw [hm]; rfl) hop, xorPrefix_xorPrefix hx]

/-- Both contexts go on with the same chaining value (R164 to R167). -/
theorem inverse_chainAfter_outBlock {c : ModeContext} (hd : c.dir = .enc) (hop : c.op = .fwd) (x : Block) (n : Nat) :
    c.inverse.chainAfter (c.outBlock x n) = c.chainAfter x := by
  cases hm : c.mode with
  | ecb => simp only [ModeContext.chainAfter, ModeContext.inverse_mode, hm, ModeContext.inverse_chain]
  | cbc =>
    simp only [ModeContext.chainAfter, ModeContext.outBlock, ModeContext.inverse_mode, hm, ModeContext.inverse_dir, hd]
  | ofb =>
    simp only [ModeContext.chainAfter, ModeContext.inverse_mode, hm, ModeContext.inverse_chain]
    rw [inverse_operate (by rw [hm]; rfl) hop]
  | ctr => simp only [ModeContext.chainAfter, ModeContext.inverse_mode, hm, ModeContext.inverse_chain]

theorem inverse_output_output {c : ModeContext} (hd : c.dir = .enc) (hop : c.op = .fwd) {b : List Byte}
    (hb : chunkFits c.mode b) : c.inverse.output (c.output b) = b := by
  rw [ModeContext.output, blockOfList_output hb, length_output hb.2.1,
    inverse_outBlock_outBlock hd hop (zeroFrom_blockOfList b), take_blockList_blockOfList hb.2.1]

theorem inverse_after_output {c : ModeContext} (hd : c.dir = .enc) (hop : c.op = .fwd) {b : List Byte}
    (hb : chunkFits c.mode b) : c.inverse.after (c.output b) = (c.after b).inverse := by
  rw [ModeContext.after, blockOfList_output hb, inverse_chainAfter_outBlock hd hop]
  rfl

/-! ### A buffer -/

theorem map_length_outputs (c : ModeContext) {bs : List (List Byte)} (hbs : ∀ b ∈ bs, b.length ≤ 16) :
    (c.outputs bs).map List.length = bs.map List.length := by
  induction bs generalizing c with
  | nil => rfl
  | cons b bs ih =>
    obtain ⟨hb, hbs⟩ := List.forall_mem_cons.1 hbs
    rw [ModeContext.outputs, List.map_cons, List.map_cons, length_output hb, ih (c.after b) hbs]

theorem inverse_outputs_outputs {c : ModeContext} (hd : c.dir = .enc) (hop : c.op = .fwd) {bs : List (List Byte)}
    (hbs : ∀ b ∈ bs, chunkFits c.mode b) : c.inverse.outputs (c.outputs bs) = bs := by
  induction bs generalizing c with
  | nil => rfl
  | cons b bs ih =>
    obtain ⟨hb, hbs⟩ := List.forall_mem_cons.1 hbs
    rw [ModeContext.outputs, ModeContext.outputs, inverse_output_output hd hop hb, inverse_after_output hd hop hb,
      ih (c := c.after b) hd hop hbs]

/-- The buffers a procedure's loop takes whole: in a block mode, those of whole blocks. -/
theorem chunkFits_of_mem_blocksOf {m : Mode} {x : List Byte} (hx : paddedMode m = true → x.length % 16 = 0) :
    ∀ b ∈ blocksOf x, chunkFits m b := fun b hb => by
  obtain ⟨hpos, hle⟩ := (isChunking_blocksOf x).1 b hb
  exact ⟨hpos, hle, fun hm => length_of_mem_blocksOf (hx hm) b hb⟩

theorem procOutput_runMode {m : Mode} {key iv x : List Byte} (hk : key.length = 16) (hiv : ivFits m iv)
    (hx : paddedMode m = true → x.length % 16 = 0) (d : Dir) (f : BlockOp) (s : State) :
    procOutput (runMode m d f key iv x s) = some ((startContext m d f key iv).outputs (blocksOf x)).flatten := by
  obtain ⟨t, ht, e⟩ := runMode_of_fits hk hiv d f x s
  rw [e]
  exact procOutput_runChunks ht (chunkFits_of_mem_blocksOf hx) iv

/-- The block outputs of the decryption of an encryption are the buffer, before padding and stripping (R196). -/
theorem runMode_roundTrip {m : Mode} {key iv x : List Byte} (hk : key.length = 16) (hiv : ivFits m iv)
    (hx : paddedMode m = true → x.length % 16 = 0) (s s' : State) :
    ∃ c, procOutput (runMode m .enc .fwd key iv x s) = some c ∧ c.length = x.length ∧
      procOutput (modeDecryptBlocks m key iv c s') = some x := by
  let enc := startContext m .enc .fwd key iv
  have fit : ∀ b ∈ blocksOf x, chunkFits enc.mode b := chunkFits_of_mem_blocksOf hx
  have lengths := map_length_outputs enc fun b hb => (fit b hb).2.1
  have hlen : (enc.outputs (blocksOf x)).flatten.length = x.length := by
    rw [List.length_flatten, lengths, ← List.length_flatten, flatten_blocksOf]
  have chunks : blocksOf (enc.outputs (blocksOf x)).flatten = enc.outputs (blocksOf x) :=
    blocksOf_flatten ((isChunking_blocksOf x).of_map_length lengths)
  have undone : (startContext m .dec (decryptOp m) key iv).outputs (enc.outputs (blocksOf x)) = blocksOf x :=
    inverse_outputs_outputs (c := enc) rfl rfl fit
  refine ⟨_, procOutput_runMode hk hiv hx _ _ s, hlen, ?_⟩
  rw [modeDecryptBlocks, procOutput_runMode hk hiv (fun hm => hlen.symm ▸ hx hm), chunks, undone, flatten_blocksOf]

/-- Stripping acts on the output of a block mode alone (R194). -/
theorem procOutput_modeDecrypt (m : Mode) (key iv x : List Byte) (s : State) :
    procOutput (modeDecrypt m key iv x s) = (procOutput (modeDecryptBlocks m key iv x s)).map
      fun out => if paddedMode m then stripZeros out else out := by
  rw [modeDecrypt]
  cases modeDecryptBlocks m key iv x s <;> rfl

/-- OFB takes an IV of 16 bytes, CTR a nonce of at most 16 (R153). -/
theorem ivFits_of_streamMode {m : Mode} {iv : List Byte}
    (hm : (m = .ofb ∧ iv.length = 16) ∨ (m = .ctr ∧ iv.length ≤ 16)) : ivFits m iv ∧ paddedMode m = false := by
  obtain ⟨rfl, hiv⟩ | ⟨rfl, hiv⟩ := hm
  · exact ⟨⟨fun _ => hiv, by simp⟩, rfl⟩
  · exact ⟨⟨by simp, fun _ => hiv⟩, rfl⟩

/-- Settles O59: the round trip of the buffer itself. -/
theorem streamModesRoundTrip : Obligations.StreamModesRoundTrip := by
  intro m key iv p s s' hk hm
  obtain ⟨hiv, hpadded⟩ := ivFits_of_streamMode hm
  obtain ⟨c, henc, hlen, hdec⟩ := runMode_roundTrip (x := p) hk hiv (by simp [hpadded]) s s'
  refine ⟨c, ?_, hlen, ?_⟩
  · rw [modeEncrypt, hpadded]
    exact henc
  · rw [procOutput_modeDecrypt, hdec, hpadded]
    rfl

/-- Settles O60: the round trip of the padded buffer, and stripping after padding. -/
theorem paddedModesRoundTrip : Obligations.PaddedModesRoundTrip := by
  intro m key iv p s s' hk hm
  obtain ⟨hiv, hpadded⟩ := ivFits_of_blockMode hm
  obtain ⟨c, henc, hlen, hdec⟩ := runMode_roundTrip (x := zeroPad p) hk hiv (fun _ => length_zeroPad_mod p) s s'
  refine ⟨c, ?_, hlen, hdec, ?_⟩
  · rw [modeEncrypt, hpadded]
    exact henc
  · rw [procOutput_modeDecrypt, hdec, hpadded, ← stripZeros_zeroPad]
    rfl

end Sys2Proof.Machine
end

section
/-! SUPPORT. The errors of commands (60_exceptions.md R212, R214, R218): the ways a command can leave an error pending,
what a write of CMD does with a word, and that the other host writes do not look at the error record. -/

namespace Sys2Proof.Statement

open Sys2Proof Sys2Proof.Machine

/-! ### A command that leaves an error pending -/

/-- An error pending after a command was pending before it, and the command was dropped; or the command raised it,
and did nothing else. -/
theorem exec_error_cases {i : Instr} {s t : State} (ht : exec i s = .next t) (hne : t.err ≠ 0) :
    (s.err ≠ 0 ∧ t = s) ∨ (s.err = 0 ∧ ∃ c, t = s.raise (opcOf i) c) := by
  obtain ⟨-, hs, e⟩ | ⟨-, hs, c, -, e⟩ | ⟨hrun, hc, e⟩ := exec_cases i s <;>
    obtain rfl := Host.Outcome.next.inj (e.symm.trans ht)
  case inl => exact .inl ⟨hs, rfl⟩
  case inr.inl => exact .inr ⟨hs, c, rfl⟩
  case inr.inr => exact absurd (effectOf_err hc hrun) hne

/-- Settles O52: the command was dropped, or it raised its error. -/
theorem commandsLeavingAnErrorWroteOnlyStatus : Obligations.CommandsLeavingAnErrorWroteOnlyStatus := by
  intro i s
  obtain ⟨t, ht⟩ := exec_answers i s
  refine ⟨t, ht, fun hne => ?_⟩
  obtain ⟨hs, rfl⟩ | ⟨hs, c, rfl⟩ := exec_error_cases ht hne
  · exact ⟨keeps_refl _ _, fun _ => rfl, fun h => absurd h hs⟩
  · exact ⟨keeps_raise s _ c, fun h => absurd hs h, fun _ => ⟨rfl, cause_listed c⟩⟩

/-! ### A write of CMD -/

/-- CMD stands at offset 0x000 (R42). -/
theorem busWrite_of_command {cmd : Word} {i : Instr} (h : decode cmd = .command i) (s : State) :
    busWrite 0x000 cmd s = exec i s :=
  (busWrite_of_mapped (r := .cmd) rfl cmd s).trans (runCommand_of_decode h s)

/-- SOFT_RESET has one word (R65, R67). -/
theorem decode_eq_softReset_iff (cmd : Word) : decode cmd = .command .softReset ↔ cmd = 0x0000003F#32 := by
  refine ⟨fun h => (encodeOfDecodeIsTheWord cmd .softReset h).2.symm, ?_⟩
  rintro rfl
  exact decodeOfEncodeIsTheCommand .softReset rfl

/-- While an error is pending every word but that of SOFT_RESET is dropped, the illegal ones included (R214). -/
theorem busWrite_dropped {cmd : Word} {s : State} (hs : s.err ≠ 0) (hcmd : cmd ≠ 0x0000003F#32) :
    busWrite 0x000 cmd s = .next s := by
  cases hd : decode cmd with
  | command i =>
    have hi : i ≠ .softReset := fun h => hcmd ((decode_eq_softReset_iff cmd).1 (h ▸ hd))
    rw [busWrite_of_command hd, exec_dropped hs hi]
  | illegal k =>
    have hrun : busWrite 0x000 cmd s = illegalCommand (fieldOpc cmd) k s := by
      rw [busWrite_of_mapped (r := .cmd) rfl, writeReg, runCommand, hd]
    obtain ⟨-, e⟩ | ⟨h, -⟩ := illegalCommand_cases (fieldOpc cmd) k s
    · exact hrun.trans e
    · exact absurd h hs

/-- An error pending after a command word where none was before is one the word raised, under its own OPC. -/
theorem eq_raise_of_busWrite {cmd : Word} {s t : State} (hs : s.err = 0) (ht : busWrite 0x000 cmd s = .next t)
    (hne : t.err ≠ 0) : ∃ c, t = s.raise (fieldOpc cmd) c := by
  cases hd : decode cmd with
  | command i =>
    rw [busWrite_of_command hd] at ht
    obtain ⟨h, -⟩ | ⟨-, hraise⟩ := exec_error_cases ht hne
    · exact absurd hs h
    · rwa [opcOf_of_decode hd] at hraise
  | illegal k => exact ⟨_, (Host.Outcome.next.inj ((busWrite_of_illegal hd hs).symm.trans ht)).symm⟩

/-- Settles O8: the word raised its error, and raising writes STATUS alone. -/
theorem errorsWriteOnlyStatus : Obligations.ErrorsWriteOnlyStatus := by
  intro s t cmd hs ht hne
  obtain ⟨c, rfl⟩ := eq_raise_of_busWrite hs ht hne
  exact ⟨rfl, cause_listed c, statusWord_eq _, keeps_raise s _ c⟩

/-- Settles O7: the branches of the rule, each by what the word decodes to. -/
theorem commandWriteFollowsDispatchRule : Obligations.CommandWriteFollowsDispatchRule := by
  intro s cmd
  by_cases hs : s.err = 0
  · rw [if_neg (not_not.2 hs)]
    cases hd : decode cmd with
    | command i => exact busWrite_of_command hd s
    | illegal k => exact busWrite_of_illegal hd hs
  · rw [if_pos hs]
    by_cases hcmd : cmd = 0x0000003F#32
    · rw [if_pos hcmd]
      exact busWrite_of_command ((decode_eq_softReset_iff cmd).2 hcmd) s
    · rw [if_neg hcmd]
      exact busWrite_dropped hs hcmd

/-! ### The other host writes -/

/-- The machine with another error record. -/
def withRecord (s : State) (e : BitVec 4) (o : BitVec 6) (n : BitVec 3) : State :=
  { s with err := e, errOpc := o, errInfo := n }

/-- A host write of STATUS leaves the error record as it is, or no error pending (R182, R218). -/
theorem writeStatus_eq_or_err (v : Word) (s : State) : writeStatus v s = s ∨ (writeStatus v s).err = 0 := by
  cases hv : v.getLsbD 31 with
  | false => exact .inl (writeStatus_of_clear hv s)
  | true =>
    rw [writeStatus_of_set hv]
    exact .inr (State.clearError_err s)

theorem writeData_keeps_record (r : DataReg) (j : Fin 4) (v : Word) (s : State) :
    sameReg s (writeData r j v s) .status := by
  cases r <;> exact ⟨rfl, rfl, rfl⟩

theorem writeData_withRecord (r : DataReg) (j : Fin 4) (v : Word) (s : State) (e : BitVec 4) (o : BitVec 6)
    (n : BitVec 3) : writeData r j v (withRecord s e o n) = withRecord (writeData r j v s) e o n := by
  cases r <;> rfl

/-- A host write of any register but CMD and STATUS keeps the error record and does the same under every other
record: `writeReg` does not read it (R218). -/
theorem writeReg_withRecord {r : WindowReg} (hcmd : r ≠ .cmd) (hstatus : r ≠ .status) (v : Word) (s : State) :
    ∃ t, writeReg r v s = .next t ∧ sameReg s t .status ∧
      ∀ e o n, writeReg r v (withRecord s e o n) = .next (withRecord t e o n) := by
  cases r with
  | cmd => exact absurd rfl hcmd
  | status => exact absurd rfl hstatus
  | data r j =>
    exact ⟨_, rfl, writeData_keeps_record r j v s,
      fun e o n => congrArg Host.Outcome.next (writeData_withRecord r j v s e o n)⟩
  | _ => exact ⟨_, rfl, ⟨rfl, rfl, rfl⟩, fun _ _ _ => rfl⟩

/-- Settles O9: CMD, STATUS, and the registers whose write does not look at the error record. -/
theorem pendingErrorDropsCommandsNotWrites : Obligations.PendingErrorDropsCommandsNotWrites :=
  ⟨fun _ _ => busWrite_dropped, fun s v => ⟨_, rfl, writeStatus_eq_or_err v s⟩,
    fun s _ v hcmd hstatus => writeReg_withRecord hcmd hstatus v s⟩

end Sys2Proof.Statement
end

section
/-! SUPPORT. Reset and SOFT_RESET (70_reset_and_hazards.md R240 to R242): every machine that was just reset is a
`hardReset`, whose registers are those of `State.reset`, and the error rules of the commands apply to it. -/

namespace Sys2Proof.Statement

open Sys2Proof Sys2Proof.Machine

/-! ### The machine after reset -/

/-- The host's side of the bus, which `hardReset` keeps, is empty at reset. -/
theorem hardReset_reset : hardReset State.reset = State.reset := rfl

/-- The reset counts as a host access, and the engine's registers do not see the count. -/
theorem tick_hardReset (s : State) : (hardReset s).tick = hardReset s.tick := rfl

/-- The reset state and every state the reset input leads to are reset machines (R240). -/
theorem eq_hardReset {t : State} (ht : t = State.reset ∨ ∃ s, hostEvent .reset s = .next t) :
    ∃ s, t = hardReset s := by
  obtain rfl | ⟨s, hs⟩ := ht
  · exact ⟨State.reset, hardReset_reset.symm⟩
  · exact ⟨s.tick, (Host.Outcome.next.inj hs).symm.trans (tick_hardReset s)⟩

@[simp] theorem hardReset_reg (s : State) (r : DataReg) : (hardReset s).reg r = unwrittenReg := by
  cases r <;> rfl

@[simp] theorem quadGet_unwrittenReg (j : Fin 4) : quadGet unwrittenReg j = .unwritten :=
  forall_fin_four (p := fun j => quadGet unwrittenReg j = .unwritten) rfl rfl rfl rfl j

@[simp] theorem hardReset_w (s : State) : (hardReset s).w = Vector.replicate 44 .unwritten := rfl

@[simp] theorem written_unwritten : DataWord.unwritten.written = false := rfl

/-- The control registers of a reset machine read as 0: none of the words takes a field `hardReset` keeps. -/
theorem controlWords_hardReset (s : State) : statusWord (hardReset s) = 0 ∧ lenWord (hardReset s) = 0 ∧
    ctrlWord (hardReset s) = 0 ∧ rkcntWord (hardReset s) = 0 ∧ gfrWord (hardReset s) = 0 := by
  have atReset : statusWord State.reset = 0 ∧ lenWord State.reset = 0 ∧ ctrlWord State.reset = 0 ∧
      rkcntWord State.reset = 0 ∧ gfrWord State.reset = 0 := by decide
  exact atReset

/-- Settles O48: the control registers by their words, the data registers by their unwritten storage. -/
theorem resetValues : Obligations.ResetValues := by
  intro t ht
  obtain ⟨s, rfl⟩ := eq_hardReset ht
  obtain ⟨status, len, ctrl, rkcnt, gfr⟩ := controlWords_hardReset s
  refine ⟨status, len, ctrl, rkcnt, gfr, rfl, fun r j => ?data, fun i => ?roundWord⟩
  case data => rw [hardReset_reg, quadGet_unwrittenReg, written_unwritten]
  case roundWord => simp

/-- Settles O53: the reset state is a reset machine, and those have the invariant. -/
theorem invariantHoldsAtReset : Obligations.InvariantHoldsAtReset :=
  inv_hardReset State.reset

/-! ### SOFT_RESET -/

/-- BLKIDX is a control register for SOFT_RESET (R242). -/
theorem sameReg_reset_clearControl_blkIdx (s : State) {r : WindowReg} (hr : inBlkIdx r = true) :
    sameReg State.reset s.clearControl r := by
  cases r with
  | blkIdx j => rfl
  | _ => cases hr

/-- Settles O49: SOFT_RESET is `clearControl`, which keeps what is outside its row of R30. -/
theorem softResetKeepsData : Obligations.SoftResetKeepsData := by
  intro s
  refine ⟨_, exec_softReset s, ?control, keeps_clearControl s⟩
  rintro r (rfl | rfl | rfl | rfl | rfl | hr)
  case inl => exact ⟨rfl, rfl, rfl⟩
  case inr.inl => exact ⟨rfl, rfl, rfl, rfl⟩
  case inr.inr.inl => exact ⟨rfl, rfl, rfl, rfl⟩
  case inr.inr.inr.inl => rfl
  case inr.inr.inr.inr.inl => rfl
  case inr.inr.inr.inr.inr => exact sameReg_reset_clearControl_blkIdx s hr

/-! ### The first command after reset -/

/-- Settles O50: at reset no error is pending, no length is 16, no round key is loaded and no mode is active, so
each command meets the first of its error rules (R215). -/
theorem firstCommandsAfterResetAreRefused : Obligations.FirstCommandsAfterResetAreRefused := by
  have noError : State.reset.err = 0 := rfl
  have noInput : State.reset.dinLen ≠ 16 := by decide
  have noKey : State.reset.keyLen ≠ 16 := by decide
  have noIv : State.reset.ivLen ≠ 16 := by decide
  have noRoundKeys : State.reset.rkCount ≠ 11 := by decide
  obtain ⟨keyExpand, blockCommand⟩ := keyAndBlockLengthErrors State.reset noError
  obtain ⟨encryptBlock, -⟩ := blockCommand .encryptBlock (.inl rfl)
  obtain ⟨decryptBlock, -⟩ := blockCommand .decryptBlock (.inr rfl)
  obtain ⟨modeBlock, -⟩ := modeBlockErrors State.reset noError
  refine ⟨keyExpand noKey, encryptBlock noInput, decryptBlock noInput, modeBlock rfl, fun d f => ?modeInit,
    fun rnd i hi => ?round⟩
  case modeInit =>
    obtain ⟨cbc, -⟩ := modeInitErrors State.reset .cbc d f noError
    obtain ⟨ofb, -⟩ := modeInitErrors State.reset .ofb d f noError
    exact ⟨cbc (.inl rfl) noIv, ofb (.inr rfl) noIv⟩
  case round =>
    obtain ⟨badIndex, badCount⟩ := roundCommandErrors State.reset rnd i noError hi
    exact ⟨fun hr => badCount hr noRoundKeys, badIndex⟩

end Sys2Proof.Statement
end
